-- ==== Sys2Proof/Word.lean ====
section
/-! DEFINITION. The machine's words: bytes, 16-bit words, and the narrower fields of an instruction word. -/

namespace Sys2Proof

/-- A byte of memory, a V register, a timer (00_scope R8: V_WIDTH, TIMER_WIDTH are 8). -/
abbrev Byte := BitVec 8

/-- 16 bits: an instruction word, `I`, `pc` and a stack entry (00_scope R8). -/
abbrev Word := BitVec 16

/-- A four-bit field: a register index X or Y, a sprite height N (30_encoding R81). -/
abbrev Nibble := BitVec 4

/-- The twelve-bit field NNN (30_encoding R81). -/
abbrev Addr12 := BitVec 12

end Sys2Proof
end

