-- ==== Sys2Proof/Syntax.lean ====
section
/-! DEFINITION. The instructions: one constructor for each of the 35 rows of the opcode map (30_encoding R85). -/

namespace Sys2Proof

/-- The 35 instructions, in the order of 30_encoding R85. `x` and `y` are register indices, `n` a sprite height,
`nn` a byte immediate, `nnn` a twelve-bit address (30_encoding R81, R83). Each operand's type admits exactly the
values its field can hold. -/
inductive Instr where
  /-- `0000` NOP (41_control_flow R120). -/
  | nop
  /-- `00E0` CLS (45_display R210). -/
  | cls
  /-- `00EE` RET (41_control_flow R121). -/
  | ret
  /-- `1NNN` JP nnn (41_control_flow R122). -/
  | jp (nnn : Addr12)
  /-- `2NNN` CALL nnn (41_control_flow R123). -/
  | call (nnn : Addr12)
  /-- `3XNN` SE Vx, nn (42_skips R140). -/
  | seImm (x : Nibble) (nn : Byte)
  /-- `4XNN` SNE Vx, nn (42_skips R141). -/
  | sneImm (x : Nibble) (nn : Byte)
  /-- `5XY0` SE Vx, Vy (42_skips R142). -/
  | seReg (x y : Nibble)
  /-- `6XNN` LD Vx, nn (43_alu R160). -/
  | ldImm (x : Nibble) (nn : Byte)
  /-- `7XNN` ADD Vx, nn (43_alu R161). -/
  | addImm (x : Nibble) (nn : Byte)
  /-- `8XY0` LD Vx, Vy (43_alu R162). -/
  | ldReg (x y : Nibble)
  /-- `8XY1` OR Vx, Vy (43_alu R163). -/
  | or (x y : Nibble)
  /-- `8XY2` AND Vx, Vy (43_alu R164). -/
  | and (x y : Nibble)
  /-- `8XY3` XOR Vx, Vy (43_alu R165). -/
  | xor (x y : Nibble)
  /-- `8XY4` ADD Vx, Vy (43_alu R166). -/
  | addReg (x y : Nibble)
  /-- `8XY5` SUB Vx, Vy (43_alu R167). -/
  | sub (x y : Nibble)
  /-- `8XY6` SHR Vx (43_alu R169); the word holds a field Y, which the instruction does not read. -/
  | shr (x y : Nibble)
  /-- `8XY7` SUBN Vx, Vy (43_alu R170). -/
  | subn (x y : Nibble)
  /-- `8XYE` SHL Vx (43_alu R171); the word holds a field Y, which the instruction does not read. -/
  | shl (x y : Nibble)
  /-- `9XY0` SNE Vx, Vy (42_skips R143). -/
  | sneReg (x y : Nibble)
  /-- `ANNN` LD I, nnn (44_index_memory R190). -/
  | ldI (nnn : Addr12)
  /-- `BNNN` JP V0, nnn (41_control_flow R124). -/
  | jpV0 (nnn : Addr12)
  /-- `CXNN` RND Vx, nn (43_alu R172). -/
  | rnd (x : Nibble) (nn : Byte)
  /-- `DXYN` DRW Vx, Vy, n (45_display R211). -/
  | drw (x y n : Nibble)
  /-- `EX9E` SKP Vx (42_skips R144). -/
  | skp (x : Nibble)
  /-- `EXA1` SKNP Vx (42_skips R145). -/
  | sknp (x : Nibble)
  /-- `FX07` LD Vx, DT (46_timers_keys R220). -/
  | ldVxDt (x : Nibble)
  /-- `FX0A` LD Vx, K (46_timers_keys R221). -/
  | ldVxK (x : Nibble)
  /-- `FX15` LD DT, Vx (46_timers_keys R222). -/
  | ldDtVx (x : Nibble)
  /-- `FX18` LD ST, Vx (46_timers_keys R223). -/
  | ldStVx (x : Nibble)
  /-- `FX1E` ADD I, Vx (44_index_memory R191). -/
  | addIVx (x : Nibble)
  /-- `FX29` LD F, Vx (44_index_memory R192). -/
  | ldFVx (x : Nibble)
  /-- `FX33` LD B, Vx (44_index_memory R193). -/
  | ldBVx (x : Nibble)
  /-- `FX55` LD [I], Vx (44_index_memory R194). -/
  | ldMemVx (x : Nibble)
  /-- `FX65` LD Vx, [I] (44_index_memory R195). -/
  | ldVxMem (x : Nibble)
deriving DecidableEq, Repr

end Sys2Proof
end

