-- ==== Sys2Proof/WellFormed.lean ====
section
/-! DEFINITION. When an instruction word is well formed: the mask and match of each row of the opcode map, written
out from 30_encoding R85. The operands of `Instr` carry their ranges in their types, so an `Instr` needs no check of its
own; what can be ill formed on this machine is a 16-bit word (30_encoding R87), and `wordLegal` is its check. -/

namespace Sys2Proof

/-- One row of the opcode map: its number, and the mask and match of its pattern (30_encoding R85). -/
structure OpcodeRow where
  number : Nat
  mask : Word
  value : Word
deriving DecidableEq, Repr

/-- `(w AND mask) = match` (30_encoding R84). -/
abbrev OpcodeRow.Matches (r : OpcodeRow) (w : Word) : Prop := w &&& r.mask = r.value

/-- Rows 1 to 10 of 30_encoding R85: patterns 0000 to 7XNN. -/
def opcodeRowsLow : List OpcodeRow :=
  [⟨1, 0xFFFF, 0x0000⟩,
   ⟨2, 0xFFFF, 0x00E0⟩,
   ⟨3, 0xFFFF, 0x00EE⟩,
   ⟨4, 0xF000, 0x1000⟩,
   ⟨5, 0xF000, 0x2000⟩,
   ⟨6, 0xF000, 0x3000⟩,
   ⟨7, 0xF000, 0x4000⟩,
   ⟨8, 0xF00F, 0x5000⟩,
   ⟨9, 0xF000, 0x6000⟩,
   ⟨10, 0xF000, 0x7000⟩]

/-- Rows 11 to 20 of 30_encoding R85: patterns 8XY0 to 9XY0. -/
def opcodeRowsAlu : List OpcodeRow :=
  [⟨11, 0xF00F, 0x8000⟩,
   ⟨12, 0xF00F, 0x8001⟩,
   ⟨13, 0xF00F, 0x8002⟩,
   ⟨14, 0xF00F, 0x8003⟩,
   ⟨15, 0xF00F, 0x8004⟩,
   ⟨16, 0xF00F, 0x8005⟩,
   ⟨17, 0xF00F, 0x8006⟩,
   ⟨18, 0xF00F, 0x8007⟩,
   ⟨19, 0xF00F, 0x800E⟩,
   ⟨20, 0xF00F, 0x9000⟩]

/-- Rows 21 to 35 of 30_encoding R85: patterns ANNN to FX65. -/
def opcodeRowsHigh : List OpcodeRow :=
  [⟨21, 0xF000, 0xA000⟩,
   ⟨22, 0xF000, 0xB000⟩,
   ⟨23, 0xF000, 0xC000⟩,
   ⟨24, 0xF000, 0xD000⟩,
   ⟨25, 0xF0FF, 0xE09E⟩,
   ⟨26, 0xF0FF, 0xE0A1⟩,
   ⟨27, 0xF0FF, 0xF007⟩,
   ⟨28, 0xF0FF, 0xF00A⟩,
   ⟨29, 0xF0FF, 0xF015⟩,
   ⟨30, 0xF0FF, 0xF018⟩,
   ⟨31, 0xF0FF, 0xF01E⟩,
   ⟨32, 0xF0FF, 0xF029⟩,
   ⟨33, 0xF0FF, 0xF033⟩,
   ⟨34, 0xF0FF, 0xF055⟩,
   ⟨35, 0xF0FF, 0xF065⟩]

/-- The complete opcode map: 35 rows (30_encoding R85). -/
def opcodeTable : List OpcodeRow := opcodeRowsLow ++ opcodeRowsAlu ++ opcodeRowsHigh

/-- A word is legal when it matches a row of the map (30_encoding R84, R87). -/
def wordLegal (w : Word) : Bool := opcodeTable.any fun r => r.Matches w

/-- The row of 30_encoding R85 that an instruction stands for (the table's column "#"). -/
def Instr.rowNumber : Instr → Nat
  | .nop => 1
  | .cls => 2
  | .ret => 3
  | .jp _ => 4
  | .call _ => 5
  | .seImm _ _ => 6
  | .sneImm _ _ => 7
  | .seReg _ _ => 8
  | .ldImm _ _ => 9
  | .addImm _ _ => 10
  | .ldReg _ _ => 11
  | .or _ _ => 12
  | .and _ _ => 13
  | .xor _ _ => 14
  | .addReg _ _ => 15
  | .sub _ _ => 16
  | .shr _ _ => 17
  | .subn _ _ => 18
  | .shl _ _ => 19
  | .sneReg _ _ => 20
  | .ldI _ => 21
  | .jpV0 _ => 22
  | .rnd _ _ => 23
  | .drw _ _ _ => 24
  | .skp _ => 25
  | .sknp _ => 26
  | .ldVxDt _ => 27
  | .ldVxK _ => 28
  | .ldDtVx _ => 29
  | .ldStVx _ => 30
  | .addIVx _ => 31
  | .ldFVx _ => 32
  | .ldBVx _ => 33
  | .ldMemVx _ => 34
  | .ldVxMem _ => 35

end Sys2Proof
end

