-- ==== Sys2Proof/Decode.lean ====
section
/-! DEFINITION. The decoder, total on every word and on any list of bytes, and the encoder. -/

namespace Sys2Proof

/-- The decoder's verdict on a word: one of the 35 instructions, or "unrecognized" with the word attached
(30_encoding R88). -/
inductive Decoded where
  | instr (i : Instr)
  | unrecognized (w : Word)
deriving DecidableEq, Repr

/-- Why a list of bytes holds no instruction at its front: fewer than two bytes (30_encoding R80: every instruction is
one 16-bit word), or a word no row of the opcode map matches (R87). -/
inductive DecodeError where
  | tooShort
  | unrecognized (w : Word)
deriving DecidableEq, Repr

/-! ## Fields (30_encoding R81) -/

/-- d1, the major opcode: w[15:12]. -/
def fieldD1 (w : Word) : Nibble := w.extractLsb' 12 4

/-- X: w[11:8]. -/
def fieldX (w : Word) : Nibble := w.extractLsb' 8 4

/-- Y: w[7:4]. -/
def fieldY (w : Word) : Nibble := w.extractLsb' 4 4

/-- N: w[3:0]. -/
def fieldN (w : Word) : Nibble := w.extractLsb' 0 4

/-- NN: w[7:0]. -/
def fieldNN (w : Word) : Byte := w.extractLsb' 0 8

/-- NNN: w[11:0]. -/
def fieldNNN (w : Word) : Addr12 := w.extractLsb' 0 12

/-- Two bytes as a big-endian word, `(high << 8) | low`: the byte at the lower address is the more significant
(20_memory R54, 40_execute_cycle R100). -/
def wordOfBytes (hi lo : Byte) : Word := (hi.setWidth 16 <<< 8) ||| lo.setWidth 16

/-- The more significant byte of a word, stored at the lower address (20_memory R54). -/
def highByte (w : Word) : Byte := w.extractLsb' 8 8

/-- The less significant byte of a word. -/
def lowByte (w : Word) : Byte := w.extractLsb' 0 8

/-! ## Decoding (30_encoding R84 to R88): on d1, refined by the other fixed digits -/

/-- Family 0: the words 0000, 00E0 and 00EE, and no other (30_encoding R87). -/
def decodeFixed (w : Word) : Decoded :=
  match fieldNNN w with
  | 0x000 => .instr .nop
  | 0x0E0 => .instr .cls
  | 0x0EE => .instr .ret
  | _ => .unrecognized w

/-- Family 8: rows 11 to 19 of 30_encoding R85, by d4. -/
def decodeAlu (w : Word) : Decoded :=
  match fieldN w with
  | 0x0 => .instr (.ldReg (fieldX w) (fieldY w))
  | 0x1 => .instr (.or (fieldX w) (fieldY w))
  | 0x2 => .instr (.and (fieldX w) (fieldY w))
  | 0x3 => .instr (.xor (fieldX w) (fieldY w))
  | 0x4 => .instr (.addReg (fieldX w) (fieldY w))
  | 0x5 => .instr (.sub (fieldX w) (fieldY w))
  | 0x6 => .instr (.shr (fieldX w) (fieldY w))
  | 0x7 => .instr (.subn (fieldX w) (fieldY w))
  | 0xE => .instr (.shl (fieldX w) (fieldY w))
  | _ => .unrecognized w

/-- Family E: rows 25 and 26 of 30_encoding R85, by NN. -/
def decodeKey (w : Word) : Decoded :=
  match fieldNN w with
  | 0x9E => .instr (.skp (fieldX w))
  | 0xA1 => .instr (.sknp (fieldX w))
  | _ => .unrecognized w

/-- Family F: rows 27 to 35 of 30_encoding R85, by NN. -/
def decodeMisc (w : Word) : Decoded :=
  match fieldNN w with
  | 0x07 => .instr (.ldVxDt (fieldX w))
  | 0x0A => .instr (.ldVxK (fieldX w))
  | 0x15 => .instr (.ldDtVx (fieldX w))
  | 0x18 => .instr (.ldStVx (fieldX w))
  | 0x1E => .instr (.addIVx (fieldX w))
  | 0x29 => .instr (.ldFVx (fieldX w))
  | 0x33 => .instr (.ldBVx (fieldX w))
  | 0x55 => .instr (.ldMemVx (fieldX w))
  | 0x65 => .instr (.ldVxMem (fieldX w))
  | _ => .unrecognized w

/-- Decode a word: a pure function of the word (40_execute_cycle R103), total, with every fixed digit of a pattern
required (30_encoding R84, R88; D1, see notes/assumptions/9.md). -/
def decodeWord (w : Word) : Decoded :=
  match fieldD1 w with
  | 0x0 => decodeFixed w
  | 0x1 => .instr (.jp (fieldNNN w))
  | 0x2 => .instr (.call (fieldNNN w))
  | 0x3 => .instr (.seImm (fieldX w) (fieldNN w))
  | 0x4 => .instr (.sneImm (fieldX w) (fieldNN w))
  | 0x5 => if fieldN w = 0 then .instr (.seReg (fieldX w) (fieldY w)) else .unrecognized w
  | 0x6 => .instr (.ldImm (fieldX w) (fieldNN w))
  | 0x7 => .instr (.addImm (fieldX w) (fieldNN w))
  | 0x8 => decodeAlu w
  | 0x9 => if fieldN w = 0 then .instr (.sneReg (fieldX w) (fieldY w)) else .unrecognized w
  | 0xA => .instr (.ldI (fieldNNN w))
  | 0xB => .instr (.jpV0 (fieldNNN w))
  | 0xC => .instr (.rnd (fieldX w) (fieldNN w))
  | 0xD => .instr (.drw (fieldX w) (fieldY w) (fieldN w))
  | 0xE => decodeKey w
  | 0xF => decodeMisc w
  | _ => .unrecognized w

/-- Decode the instruction at the front of a list of bytes, and give what follows it. -/
def decodeBytes : List Byte → Except DecodeError (Instr × List Byte)
  | hi :: lo :: rest =>
    match decodeWord (wordOfBytes hi lo) with
    | .instr i => .ok (i, rest)
    | .unrecognized w => .error (.unrecognized w)
  | _ => .error .tooShort

/-! ## Encoding (30_encoding R82: the six formats; R85: the fixed digits) -/

/-- A word from its four nibbles: d1 in w[15:12] down to d4 in w[3:0] (30_encoding R81). -/
def wordOfNibbles (d1 d2 d3 d4 : Nibble) : Word :=
  (d1.setWidth 16 <<< 12) ||| (d2.setWidth 16 <<< 8) ||| (d3.setWidth 16 <<< 4) ||| d4.setWidth 16

/-- Format NNN: op in w[15:12], NNN in w[11:0]. -/
def formatNNN (op : Nibble) (nnn : Addr12) : Word := (op.setWidth 16 <<< 12) ||| nnn.setWidth 16

/-- Format XNN: op in w[15:12], X in w[11:8], NN in w[7:0]. -/
def formatXNN (op x : Nibble) (nn : Byte) : Word :=
  (op.setWidth 16 <<< 12) ||| (x.setWidth 16 <<< 8) ||| nn.setWidth 16

/-- Formats XY and XYN: op X Y n, where n is op2 in the format XY. -/
def formatXYN (op x y n : Nibble) : Word := wordOfNibbles op x y n

/-- The word of an instruction (30_encoding R82, R85). The format X is the format XNN with a fixed low byte. -/
def encode : Instr → Word
  | .nop => 0x0000
  | .cls => 0x00E0
  | .ret => 0x00EE
  | .jp nnn => formatNNN 0x1 nnn
  | .call nnn => formatNNN 0x2 nnn
  | .seImm x nn => formatXNN 0x3 x nn
  | .sneImm x nn => formatXNN 0x4 x nn
  | .seReg x y => formatXYN 0x5 x y 0x0
  | .ldImm x nn => formatXNN 0x6 x nn
  | .addImm x nn => formatXNN 0x7 x nn
  | .ldReg x y => formatXYN 0x8 x y 0x0
  | .or x y => formatXYN 0x8 x y 0x1
  | .and x y => formatXYN 0x8 x y 0x2
  | .xor x y => formatXYN 0x8 x y 0x3
  | .addReg x y => formatXYN 0x8 x y 0x4
  | .sub x y => formatXYN 0x8 x y 0x5
  | .shr x y => formatXYN 0x8 x y 0x6
  | .subn x y => formatXYN 0x8 x y 0x7
  | .shl x y => formatXYN 0x8 x y 0xE
  | .sneReg x y => formatXYN 0x9 x y 0x0
  | .ldI nnn => formatNNN 0xA nnn
  | .jpV0 nnn => formatNNN 0xB nnn
  | .rnd x nn => formatXNN 0xC x nn
  | .drw x y n => formatXYN 0xD x y n
  | .skp x => formatXNN 0xE x 0x9E
  | .sknp x => formatXNN 0xE x 0xA1
  | .ldVxDt x => formatXNN 0xF x 0x07
  | .ldVxK x => formatXNN 0xF x 0x0A
  | .ldDtVx x => formatXNN 0xF x 0x15
  | .ldStVx x => formatXNN 0xF x 0x18
  | .addIVx x => formatXNN 0xF x 0x1E
  | .ldFVx x => formatXNN 0xF x 0x29
  | .ldBVx x => formatXNN 0xF x 0x33
  | .ldMemVx x => formatXNN 0xF x 0x55
  | .ldVxMem x => formatXNN 0xF x 0x65

/-- The bytes of an instruction, as they lie in memory from the lower address up (20_memory R54). -/
def encodeBytes (i : Instr) : List Byte := [highByte (encode i), lowByte (encode i)]

/-! ## The opcode table's numbering -/

/-- The word whose bits are those of `w` below `nbits`, and 0 above (an instruction is 16 bits, 30_encoding R80). -/
def tableWord (nbits w : Nat) : Word := BitVec.ofNat 16 (w % 2 ^ nbits)

/-- The instruction the decoder reads from the word `w` of opcode_table.json, whose bit 0 is the word's least
significant: the word is laid out big-endian (20_memory R54) and its two bytes are given to the decoder. -/
def decodeTableWord (nbits w : Nat) : Option Instr :=
  match decodeBytes [highByte (tableWord nbits w), lowByte (tableWord nbits w)] with
  | .ok (i, _) => some i
  | .error _ => none

end Sys2Proof
end

