-- ==== Sys2Proof/Config.lean ====
section
/-! DEFINITION. What the spec leaves to configuration: the parameters of an engine, and the random-byte source. -/

namespace Sys2Proof.Config

/-- The 80 bytes of FONT, at addresses 0x000 to 0x04F: 16 glyphs of 5 bytes, glyph v at 5 v (10_state R31). -/
abbrev Font := Vector Byte 80

/-- The two named parameters of an engine. They are fixed for one engine: no instruction and no host operation
changes them (10_state R21, 70_reset_and_hazards R281). -/
structure Params where
  /-- FONT: the document gives its layout, not its bytes (00_scope R9, 10_state R31; D9). -/
  font : Font
  /-- CFG_8XY1_Y_IS_X: whether 8XY1 takes its second operand from nibble X (00_scope R9, 43_alu R163; D2). -/
  orYIsX : Bool
deriving DecidableEq, Repr

/-- The conventional font, FONT's default (10_state R31, whose bytes the spec marks as general knowledge).
PRESUMED, unsafe: see notes/assumptions/2.md. -/
def defaultFont : Font :=
  #v[0xF0, 0x90, 0x90, 0x90, 0xF0,
     0x20, 0x60, 0x20, 0x20, 0x70,
     0xF0, 0x10, 0xF0, 0x80, 0xF0,
     0xF0, 0x10, 0xF0, 0x10, 0xF0,
     0x90, 0x90, 0xF0, 0x10, 0x10,
     0xF0, 0x80, 0xF0, 0x10, 0xF0,
     0xF0, 0x80, 0xF0, 0x90, 0xF0,
     0xF0, 0x10, 0x20, 0x40, 0x40,
     0xF0, 0x90, 0xF0, 0x90, 0xF0,
     0xF0, 0x90, 0xF0, 0x10, 0xF0,
     0xF0, 0x90, 0xF0, 0x90, 0x90,
     0xE0, 0x90, 0xE0, 0x90, 0xE0,
     0xF0, 0x80, 0x80, 0x80, 0xF0,
     0xE0, 0x90, 0x90, 0x90, 0xE0,
     0xF0, 0x80, 0xF0, 0x80, 0xF0,
     0xF0, 0x80, 0xF0, 0x80, 0x80]

/-- The parameters at their defaults: the default FONT, and 8XY1 reading nibble Y (00_scope R9).
See notes/assumptions/2.md and 3.md. -/
def defaultParams : Params := { font := defaultFont, orYIsX := false }

/-- The random-byte source of CXNN: the byte of the n-th draw. A free value with no body, so nothing can be proved
of any byte it gives (60_exceptions R255: "a free draw"; notes/assumptions/1.md). -/
opaque randomByte : Nat → Byte

end Sys2Proof.Config
end

