-- ==== Sys2Proof/Machine/State.lean ====
section
/-! DEFINITION. The engine's state as plain data (10_state R20), the fault record, the reasons a step can stop, and
the state after construction and reset (10_state R38). -/

namespace Sys2Proof.Machine

/-- The record of a fault: its kind with exactly the fields 60_exceptions R241 gives that kind (R240). `pc` is the
address of the faulting instruction, `opcode` the word fetched. -/
inductive FaultRecord where
  /-- Code 1: the word matches no row of the opcode map. -/
  | unrecognizedOpcode (pc opcode : Word)
  /-- Code 2: pc + 1 >= 4096. No word was fetched, so no opcode. -/
  | fetchOutOfBounds (pc : Word)
  /-- Code 3: DXYN, FX33, FX55, FX65 with [addr, addr + len) not inside memory. -/
  | memoryOutOfBounds (pc opcode addr : Word) (len : Nat)
  /-- Code 4: 2NNN with sp = 16. -/
  | stackOverflow (pc opcode : Word)
  /-- Code 5: 00EE with sp = 0. -/
  | stackUnderflow (pc opcode : Word)
  /-- Code 6: EX9E, EXA1 with V[X] >= 16; `value` is V[X]. -/
  | keyIndexOutOfRange (pc opcode : Word) (value : Byte)
deriving DecidableEq, Repr

/-- Why `step` answers no next state by a fault. -/
inductive Fault where
  /-- Raised by `step` alone, when the engine's `fault` is already set: execute_one then changes no state and returns
  that record again (40_execute_cycle R107). Safe: it says that no instruction runs, and the state stays. A step that
  RAISES one of the six faults is not this: it answers a next state with `fault` set (R106; notes/assumptions/4.md). -/
  | stopped (record : FaultRecord)
deriving DecidableEq, Repr

/-- Why `exec` gives an instruction no meaning. -/
inductive Refusal where
  /-- Raised by an arm of `exec` for an instruction without a meaning yet. Safe. No arm raises it: all 35 instructions
  are modelled. -/
  | notModelled (mnemonic : String)
deriving DecidableEq, Repr

/-- Memory: the (address, byte) pairs that differ from the reset contents, by strictly rising address. -/
abbrev Memory := List Host.Cell

/-- The framebuffer: 64 x 32 pixels, row-major, index x + 64 y, true for lit (10_state R32). -/
abbrev Framebuffer := Vector Bool 2048

/-- The engine's state: the components of 10_state R20, and the model's own `draws` and `params`. -/
structure State where
  /-- `mem`: 4096 bytes (10_state R30, 20_memory R50). -/
  mem : Memory
  /-- `V`: V0 to VF; VF is also the flag (10_state R22, R23). -/
  v : Vector Byte 16
  /-- `I`, the index register (10_state R26). -/
  index : Word
  /-- `pc`, the address of the next instruction to fetch (10_state R24). -/
  pc : Word
  /-- `stack`: return addresses; entries 0 to sp - 1 are the pushed ones (10_state R27). -/
  stack : Vector Word 16
  /-- `sp`: how many entries are pushed, 0 to 16 (10_state R27). -/
  sp : Fin 17
  /-- `fb`, the framebuffer (10_state R32). -/
  fb : Framebuffer
  /-- `key`: true for pressed (10_state R33). -/
  key : Vector Bool 16
  /-- `DT`, the delay timer (10_state R29). -/
  dt : Byte
  /-- `ST`, the sound timer (10_state R29). -/
  st : Byte
  /-- `fault`: none, or the record of the fault that stopped the engine (10_state R34). -/
  fault : Option FaultRecord
  /-- The MODEL's own: how many random bytes have been drawn; it picks the next free value
  `Config.randomByte draws` (60_exceptions R255; notes/assumptions/1.md). -/
  draws : Nat
  /-- The MODEL's own home for the parameters FONT and CFG_8XY1_Y_IS_X, which nothing changes (10_state R21;
  notes/assumptions/2.md, 3.md). -/
  params : Config.Params
deriving DecidableEq, Repr

/-- An outcome of an instruction or of a step. -/
abbrev Result := Host.Outcome State Fault Refusal

/-- The state after `construct()` of an engine with parameters `p` (10_state R38, 70_reset_and_hazards R280). Memory
lists nothing: it holds its reset contents, FONT and zeros. -/
def State.construct (p : Config.Params) : State :=
  { mem := []
    v := Vector.replicate 16 0
    index := 0x0000
    pc := 0x0200
    stack := Vector.replicate 16 0
    sp := 0
    fb := Vector.replicate 2048 false
    key := Vector.replicate 16 false
    dt := 0x00
    st := 0x00
    fault := none
    draws := 0
    params := p }

/-- The state right after reset (10_state R38), with the parameters at their defaults (notes/assumptions/2.md, 3.md)
and no random byte drawn (notes/assumptions/1.md). -/
def State.reset : State := State.construct Config.defaultParams

end Sys2Proof.Machine
end

