-- ==== Sys2Proof/Machine/Memory.lean ====
section
/-! DEFINITION. Memory: what an unlisted address reads as, reading and writing one byte, and the canonical form. -/

namespace Sys2Proof.Machine

/-- What an address that memory does not list reads as: its contents after construct and reset, FONT at 0x000 to
0x04F and 0x00 elsewhere (10_state R30, R38; notes/assumptions/7.md). -/
def Memory.unlisted (font : Config.Font) (a : Nat) : Byte :=
  if h : a < 80 then font[a] else 0x00

/-- The byte listed for an address, if there is one. -/
def Memory.lookup : Memory → Nat → Option Byte
  | [], _ => none
  | (b, x) :: m, a => if a = b then some x else Memory.lookup m a

/-- `mem[a]`: the byte at an address (00_scope R12, MemRead). -/
def Memory.read (font : Config.Font) (m : Memory) (a : Nat) : Byte :=
  (Memory.lookup m a).getD (Memory.unlisted font a)

/-- List a byte for an address, in its place by rising address. -/
def Memory.put : Memory → Nat → Byte → Memory
  | [], a, x => [(a, x)]
  | (b, y) :: m, a, x =>
    if a < b then (a, x) :: (b, y) :: m
    else if a = b then (a, x) :: m
    else (b, y) :: Memory.put m a x

/-- List nothing for an address. -/
def Memory.remove (m : Memory) (a : Nat) : Memory := m.filter fun c => c.1 != a

/-- `mem[a] <- x` (00_scope R12, MemWrite, which requires a < 4096: every caller has checked it, and nothing is written
outside memory, 20_memory R58; notes/assumptions/7.md). Writing what an unlisted address reads as removes the entry. -/
def Memory.write (font : Config.Font) (m : Memory) (a : Nat) (x : Byte) : Memory :=
  if 4096 ≤ a then m
  else if x = Memory.unlisted font a then Memory.remove m a
  else Memory.put m a x

/-- The canonical form: strictly rising addresses inside memory, and no entry equal to what an unlisted address reads
as. Two memories in this form that read alike are equal. -/
abbrev Memory.wf (font : Config.Font) (m : Memory) : Prop :=
  m.Pairwise (fun c d => c.1 < d.1) ∧ ∀ c ∈ m, c.1 < 4096 ∧ c.2 ≠ Memory.unlisted font c.1

end Sys2Proof.Machine
end

