-- ==== Sys2Proof/Machine/Ops.lean ====
section
/-! DEFINITION. The named operations over the state: registers, program counter, memory, stack, framebuffer, keys,
the random source, and raising a fault. An instruction's meaning runs with pc = a + 2, where a is the instruction's own
address (40_execute_cycle R104). -/

namespace Sys2Proof.Machine

/-! ## Registers (00_scope R11) -/

/-- `V[x]`. -/
def State.getV (s : State) (x : Nibble) : Byte := s.v[x.toNat]'x.isLt

/-- `V[x] <- b`. -/
def State.setV (s : State) (x : Nibble) (b : Byte) : State := { s with v := s.v.set x.toNat b x.isLt }

/-- `I <- w`. -/
def State.setIndex (s : State) (w : Word) : State := { s with index := w }

/-- `DT <- b`. -/
def State.setDt (s : State) (b : Byte) : State := { s with dt := b }

/-- `ST <- b`. -/
def State.setSt (s : State) (b : Byte) : State := { s with st := b }

/-! ## Program counter -/

/-- `pc <- w`. -/
def State.setPc (s : State) (w : Word) : State := { s with pc := w }

/-- a, the address of the instruction being executed, while pc = a + 2 (40_execute_cycle R104). -/
def State.instrAddr (s : State) : Word := s.pc - 2

/-- `Skip()`: pc <- pc + 2 (40_execute_cycle R110). -/
def State.skip (s : State) : State := s.setPc (s.pc + 2)

/-- `if c: Skip()` (42_skips). -/
def State.skipIf (s : State) (c : Bool) : State := if c then s.skip else s

/-! ## Memory (00_scope R12) -/

/-- `MemRead(a, 1)`. -/
def State.readByte (s : State) (a : Nat) : Byte := Memory.read s.params.font s.mem a

/-- `MemWrite(a, 1, b)`. -/
def State.writeByte (s : State) (a : Nat) (b : Byte) : State :=
  { s with mem := Memory.write s.params.font s.mem a b }

/-- `InRange(a, n)`: a + n <= 4096, on naturals (00_scope R12). -/
abbrev inRange (a n : Nat) : Prop := a + n ≤ 4096

/-- Bytes written one by one from an address up (20_memory R57). -/
def State.storeBytes (s : State) (a : Nat) : List Byte → State
  | [] => s
  | b :: bs => (s.writeByte a b).storeBytes (a + 1) bs

/-- `V[k] <- MemRead(a + k, 1)` for k = 0 .. n - 1, in that order (44_index_memory R195). -/
def State.loadRegs (s : State) (a : Nat) : Nat → State
  | 0 => s
  | k + 1 =>
    let t := s.loadRegs a k
    { t with v := t.v.setIfInBounds k (t.readByte (a + k)) }

/-! ## Stack (10_state R27) -/

/-- `Push(w)`: none when sp = 16 (StackOverflow), else stack[sp] <- w and then sp <- sp + 1. -/
def State.push (s : State) (w : Word) : Option State :=
  if h : s.sp.val < 16 then
    some { s with stack := s.stack.set s.sp.val w h, sp := ⟨s.sp.val + 1, Nat.succ_lt_succ h⟩ }
  else none

/-- `Pop()`: none when sp = 0 (StackUnderflow), else sp <- sp - 1 and then the entry stack[sp], left in place. -/
def State.pop (s : State) : Option (Word × State) :=
  match s.sp with
  | ⟨0, _⟩ => none
  | ⟨k + 1, h⟩ =>
    some (s.stack[k]'(Nat.lt_of_succ_lt_succ h), { s with sp := ⟨k, Nat.lt_of_succ_lt h⟩ })

/-! ## Framebuffer (00_scope R11, 45_display) -/

/-- The framebuffer index of pixel (x mod 64, y mod 32): x + 64 y after each coordinate has wrapped on its own
(10_state R32, 45_display R211). -/
def pixelIndex (x y : Nat) : Fin 2048 := ⟨x % 64 + 64 * (y % 32), by omega⟩

/-- `fb <- fb'`. -/
def State.setFb (s : State) (fb : Framebuffer) : State := { s with fb := fb }

/-- A drawing in progress: the framebuffer so far, and whether a lit pixel has been turned off. -/
structure Drawing where
  fb : Framebuffer
  collide : Bool
deriving DecidableEq, Repr

/-- One set bit of a sprite: note a collision if the pixel is lit, and flip it (45_display R211). -/
def Drawing.flip (d : Drawing) (p : Fin 2048) : Drawing :=
  { fb := d.fb.set p.val (!d.fb[p.val]) p.isLt, collide := d.collide || d.fb[p.val] }

/-- The first `k` columns of a sprite row `b` whose leftmost pixel is at column `x0` of row `y`; column offset c is bit
7 - c, so bit 7 is the leftmost (45_display R211, R212; notes/assumptions/13.md). -/
def Drawing.columns (d : Drawing) (x0 y : Nat) (b : Byte) : Nat → Drawing
  | 0 => d
  | c + 1 =>
    let e := d.columns x0 y b c
    if b.getLsbD (7 - c) then e.flip (pixelIndex (x0 + c) y) else e

/-- The first `n` rows of the sprite at memory address `a`, drawn from (x0, y0) down (45_display R211). -/
def State.drawRows (s : State) (a x0 y0 : Nat) : Nat → Drawing
  | 0 => { fb := s.fb, collide := false }
  | r + 1 => (s.drawRows a x0 y0 r).columns x0 (y0 + r) (s.readByte (a + r)) 8

/-! ## Keys -/

/-- The least pressed key, if any is pressed (46_timers_keys R221). -/
def State.leastPressed (s : State) : Option (Fin 16) := (List.finRange 16).find? fun k => s.key[k.val]

/-! ## The random source -/

/-- `RandomByte()`: one draw from the source, and the state with that draw counted (00_scope R12, 60_exceptions R255;
notes/assumptions/1.md). -/
def State.drawByte (s : State) : Byte × State :=
  (Config.randomByte s.draws, { s with draws := s.draws + 1 })

/-! ## The fault record (60_exceptions R240, R241) -/

/-- The code of a fault's kind, 1 to 6 (60_exceptions R240). -/
def FaultRecord.code : FaultRecord → Nat
  | .unrecognizedOpcode _ _ => 1
  | .fetchOutOfBounds _ => 2
  | .memoryOutOfBounds _ _ _ _ => 3
  | .stackOverflow _ _ => 4
  | .stackUnderflow _ _ => 5
  | .keyIndexOutOfRange _ _ _ => 6

/-- The address of the instruction that faulted (60_exceptions R241). -/
def FaultRecord.instrPc : FaultRecord → Word
  | .unrecognizedOpcode pc _ => pc
  | .fetchOutOfBounds pc => pc
  | .memoryOutOfBounds pc _ _ _ => pc
  | .stackOverflow pc _ => pc
  | .stackUnderflow pc _ => pc
  | .keyIndexOutOfRange pc _ _ => pc

/-- The word fetched, absent for FetchOutOfBounds (60_exceptions R241). -/
def FaultRecord.opcode : FaultRecord → Option Word
  | .unrecognizedOpcode _ w => some w
  | .fetchOutOfBounds _ => none
  | .memoryOutOfBounds _ w _ _ => some w
  | .stackOverflow _ w => some w
  | .stackUnderflow _ w => some w
  | .keyIndexOutOfRange _ w _ => some w

/-! ## Taking a fault

There is no handler, no saved register and no return from a fault (60_exceptions R242, R244): the record stays in
`fault` until the host's reset or construct (`Machine/HostOps.lean`). -/

/-- The state a fault leaves: the state when `execute_one` was called, with `fault` set to the record
(40_execute_cycle R106, 60_exceptions R242). -/
def State.takeFault (s0 : State) (r : FaultRecord) : State := { s0 with fault := some r }

/-- `raise Fault(r)` inside an instruction, before it has written anything: the fetch's advance of pc is undone, and the
fault is taken (40_execute_cycle R106; DEDUCED, notes/assumptions/5.md). -/
def State.raise (s : State) (r : FaultRecord) : Result := .next ((s.setPc s.instrAddr).takeFault r)

end Sys2Proof.Machine
end

