-- ==== Sys2Proof/Machine/Flags.lean ====
section
/-! DEFINITION. Every value an instruction writes to VF as a flag (10_state R35). -/

namespace Sys2Proof.Machine

/-- VF, the flag register (10_state R23). -/
def vf : Nibble := 0xF

/-- A condition as a flag byte: 1 when it holds, else 0. -/
def flagOf (c : Bool) : Byte := if c then 1 else 0

/-- 8XY4's carry: 1 exactly when the unwrapped sum exceeds 255 (43_alu R166). -/
def carryFlag (x y : Byte) : Byte := flagOf (decide (x.toNat + y.toNat > 255))

/-- 8XY5's not-borrow: 1 exactly when x >= y (43_alu R167). -/
def notBorrowFlag (x y : Byte) : Byte := flagOf (decide (x.toNat ≥ y.toNat))

/-- 8XY7's borrow of y - x: 1 exactly when y < x (43_alu R170). -/
def borrowFlag (x y : Byte) : Byte := flagOf (decide (y.toNat < x.toNat))

/-- 8XY6's shifted-out bit: bit 0 (43_alu R169). -/
def lowBitFlag (x : Byte) : Byte := x &&& 1

/-- 8XYE's shifted-out bit: bit 7 (43_alu R171). -/
def highBitFlag (x : Byte) : Byte := x >>> 7

/-- DXYN's collision: 1 when a lit pixel was turned off (45_display R211). -/
def collisionFlag (collide : Bool) : Byte := flagOf collide

end Sys2Proof.Machine
end

