-- ==== Sys2Proof/Machine/Operands.lean ====
section
/-! DEFINITION. The operand forms: how immediates widen, and the addresses and byte lists instructions work on
(30_encoding R83, 44_index_memory R196). -/

namespace Sys2Proof.Machine

/-- `zext_16` of the twelve-bit field NNN (30_encoding R83). -/
def addrOf (nnn : Addr12) : Word := nnn.setWidth 16

/-- `zext_16` of a byte. -/
def zextByte (b : Byte) : Word := b.setWidth 16

/-- The base address of every data access, I, as a natural, so that I + k never wraps (44_index_memory R196). -/
def State.base (s : State) : Nat := s.index.toNat

/-- X + 1, the count of registers FX55 and FX65 move (30_encoding R83). -/
def regCount (x : Nibble) : Nat := x.toNat + 1

/-- V0 to VX, in that order (44_index_memory R194). -/
def State.regsUpTo (s : State) (x : Nibble) : List Byte := s.v.toList.take (regCount x)

/-- The register index 8XY1 takes its second operand from: X when CFG_8XY1_Y_IS_X is true, else Y
(43_alu R163; notes/assumptions/3.md). -/
def State.orSource (s : State) (x y : Nibble) : Nibble := if s.params.orYIsX then x else y

/-- The glyph address of a value: value * 5, exact in 16 bits, the value not masked (44_index_memory R192). -/
def glyphAddr (b : Byte) : Word := zextByte b * 5

/-- The three decimal digits of a byte: hundreds, tens, ones (44_index_memory R193). -/
def bcdDigits (b : Byte) : List Byte :=
  [BitVec.ofNat 8 (b.toNat / 100), BitVec.ofNat 8 (b.toNat / 10 % 10), BitVec.ofNat 8 (b.toNat % 10)]

end Sys2Proof.Machine
end

