-- ==== Sys2Proof/Machine/Alu.lean ====
section
/-! DEFINITION. Register and ALU instructions: 6XNN, 7XNN, 8XY0 to 8XY7, 8XYE, CXNN (43_alu). Statements run in the
order the spec writes them, each reading the state the one before it left (00_scope R11; notes/assumptions/10.md). -/

namespace Sys2Proof.Machine

/-- `6XNN` LD: V[X] <- NN (43_alu R160). -/
def execLdImm (x : Nibble) (nn : Byte) (s : State) : Result := .next (s.setV x nn)

/-- `7XNN` ADD: V[X] <- (V[X] + NN) mod 256; VF is no flag here (43_alu R161). -/
def execAddImm (x : Nibble) (nn : Byte) (s : State) : Result := .next (s.setV x (s.getV x + nn))

/-- `8XY0` LD: V[X] <- V[Y] (43_alu R162). -/
def execLdReg (x y : Nibble) (s : State) : Result := .next (s.setV x (s.getV y))

/-- `8XY1` OR: V[X] <- V[X] OR V[s], where s is Y, or X when CFG_8XY1_Y_IS_X is true (43_alu R163). -/
def execOr (x y : Nibble) (s : State) : Result := .next (s.setV x (s.getV x ||| s.getV (s.orSource x y)))

/-- `8XY2` AND: V[X] <- V[X] AND V[Y] (43_alu R164). -/
def execAnd (x y : Nibble) (s : State) : Result := .next (s.setV x (s.getV x &&& s.getV y))

/-- `8XY3` XOR: V[X] <- V[X] XOR V[Y] (43_alu R165). -/
def execXor (x y : Nibble) (s : State) : Result := .next (s.setV x (s.getV x ^^^ s.getV y))

/-- `8XY4` ADD: V[X] <- the sum mod 256, then VF <- carry (43_alu R166). -/
def execAddReg (x y : Nibble) (s : State) : Result :=
  .next ((s.setV x (s.getV x + s.getV y)).setV vf (carryFlag (s.getV x) (s.getV y)))

/-- `8XY5` SUB: V[X] <- (V[X] - V[Y]) mod 256, then VF <- not-borrow (43_alu R167). -/
def execSub (x y : Nibble) (s : State) : Result :=
  .next ((s.setV x (s.getV x - s.getV y)).setV vf (notBorrowFlag (s.getV x) (s.getV y)))

/-- `8XY6` SHR: VF <- bit 0 of V[X], then V[X] <- V[X] >> 1, which reads V[X] after the first write; field Y is not
read (43_alu R169). -/
def execShr (x _y : Nibble) (s : State) : Result :=
  let t := s.setV vf (lowBitFlag (s.getV x))
  .next (t.setV x (t.getV x >>> 1))

/-- `8XY7` SUBN: V[X] <- (V[Y] - V[X]) mod 256, then VF <- borrow, the opposite polarity from 8XY5 (43_alu R170). -/
def execSubn (x y : Nibble) (s : State) : Result :=
  .next ((s.setV x (s.getV y - s.getV x)).setV vf (borrowFlag (s.getV x) (s.getV y)))

/-- `8XYE` SHL: VF <- bit 7 of V[X], then V[X] <- (V[X] << 1) mod 256, which reads V[X] after the first write; field Y
is not read (43_alu R171). -/
def execShl (x _y : Nibble) (s : State) : Result :=
  let t := s.setV vf (highBitFlag (s.getV x))
  .next (t.setV x (t.getV x <<< 1))

/-- `CXNN` RND: V[X] <- one random byte AND NN (43_alu R172; notes/assumptions/1.md). -/
def execRnd (x : Nibble) (nn : Byte) (s : State) : Result :=
  let (r, t) := s.drawByte
  .next (t.setV x (r &&& nn))

end Sys2Proof.Machine
end

