-- ==== Sys2Proof/Machine/Control.lean ====
section
/-! DEFINITION. Control flow: 0000, 00EE, 1NNN, 2NNN, BNNN (41_control_flow). On entry pc = a + 2. -/

namespace Sys2Proof.Machine

/-- `0000` NOP: nothing (41_control_flow R120). -/
def execNop (s : State) : Result := .next s

/-- `00EE` RET: pc <- the popped return address; StackUnderflow when the stack is empty (41_control_flow R121). -/
def execRet (s : State) : Result :=
  match s.pop with
  | none => s.raise (.stackUnderflow s.instrAddr (encode .ret))
  | some (target, t) => .next (t.setPc target)

/-- `1NNN` JP: pc <- NNN (41_control_flow R122). -/
def execJp (nnn : Addr12) (s : State) : Result := .next (s.setPc (addrOf nnn))

/-- `2NNN` CALL: push pc = a + 2, then pc <- NNN; StackOverflow when the stack is full (41_control_flow R123). -/
def execCall (nnn : Addr12) (s : State) : Result :=
  match s.push s.pc with
  | none => s.raise (.stackOverflow s.instrAddr (encode (.call nnn)))
  | some t => .next (t.setPc (addrOf nnn))

/-- `BNNN` JP V0: pc <- V0 + NNN, neither wrapped nor masked (41_control_flow R124; notes/assumptions/15.md). -/
def execJpV0 (nnn : Addr12) (s : State) : Result := .next (s.setPc (zextByte (s.getV 0x0) + addrOf nnn))

end Sys2Proof.Machine
end

