-- ==== Sys2Proof/Machine/Display.lean ====
section
/-! DEFINITION. Display instructions: 00E0, DXYN (45_display). -/

namespace Sys2Proof.Machine

/-- `00E0` CLS: every pixel false; VF is not written (45_display R210). -/
def execCls (s : State) : Result := .next (s.setFb (Vector.replicate 2048 false))

/-- `DXYN` DRW: the N rows of the sprite at I, XORed from (V[X], V[Y]), then VF <- collision. The coordinates are read
before VF is written; the range is checked before any read (45_display R211; notes/assumptions/11.md, 16.md). -/
def execDrw (x y n : Nibble) (s : State) : Result :=
  if inRange s.base n.toNat then
    let d := s.drawRows s.base (s.getV x).toNat (s.getV y).toNat n.toNat
    .next ((s.setFb d.fb).setV vf (collisionFlag d.collide))
  else s.raise (.memoryOutOfBounds s.instrAddr (encode (.drw x y n)) s.index n.toNat)

end Sys2Proof.Machine
end

