-- ==== Sys2Proof/Machine/IndexMemory.lean ====
section
/-! DEFINITION. Index register and memory instructions: ANNN, FX1E, FX29, FX33, FX55, FX65 (44_index_memory). A memory
instruction checks its whole range before its first access (20_memory R58; notes/assumptions/11.md). -/

namespace Sys2Proof.Machine

/-- `ANNN` LD I: I <- NNN (44_index_memory R190). -/
def execLdI (nnn : Addr12) (s : State) : Result := .next (s.setIndex (addrOf nnn))

/-- `FX1E` ADD I: I <- (I + V[X]) mod 2^16; VF is not written (44_index_memory R191). -/
def execAddIVx (x : Nibble) (s : State) : Result := .next (s.setIndex (s.index + zextByte (s.getV x)))

/-- `FX29` LD F: I <- V[X] * 5 (44_index_memory R192). -/
def execLdFVx (x : Nibble) (s : State) : Result := .next (s.setIndex (glyphAddr (s.getV x)))

/-- `FX33` LD B: the decimal digits of V[X] at I, I + 1, I + 2 (44_index_memory R193). -/
def execLdBVx (x : Nibble) (s : State) : Result :=
  if inRange s.base 3 then .next (s.storeBytes s.base (bcdDigits (s.getV x)))
  else s.raise (.memoryOutOfBounds s.instrAddr (encode (.ldBVx x)) s.index 3)

/-- `FX55` LD [I]: V0 to VX stored from I up; I unchanged (44_index_memory R194; notes/assumptions/14.md). -/
def execLdMemVx (x : Nibble) (s : State) : Result :=
  if inRange s.base (regCount x) then .next (s.storeBytes s.base (s.regsUpTo x))
  else s.raise (.memoryOutOfBounds s.instrAddr (encode (.ldMemVx x)) s.index (regCount x))

/-- `FX65` LD Vx: V0 to VX loaded from I up; I unchanged (44_index_memory R195; notes/assumptions/14.md). -/
def execLdVxMem (x : Nibble) (s : State) : Result :=
  if inRange s.base (regCount x) then .next (s.loadRegs s.base (regCount x))
  else s.raise (.memoryOutOfBounds s.instrAddr (encode (.ldVxMem x)) s.index (regCount x))

end Sys2Proof.Machine
end

