-- ==== Sys2Proof/Machine/Skips.lean ====
section
/-! DEFINITION. Conditional skips: 3XNN, 4XNN, 5XY0, 9XY0, EX9E, EXA1 (42_skips). On entry pc = a + 2. -/

namespace Sys2Proof.Machine

/-- `3XNN` SE: skip if V[X] = NN (42_skips R140). -/
def execSeImm (x : Nibble) (nn : Byte) (s : State) : Result := .next (s.skipIf (s.getV x == nn))

/-- `4XNN` SNE: skip if V[X] != NN (42_skips R141). -/
def execSneImm (x : Nibble) (nn : Byte) (s : State) : Result := .next (s.skipIf (s.getV x != nn))

/-- `5XY0` SE: skip if V[X] = V[Y] (42_skips R142). -/
def execSeReg (x y : Nibble) (s : State) : Result := .next (s.skipIf (s.getV x == s.getV y))

/-- `9XY0` SNE: skip if V[X] != V[Y] (42_skips R143). -/
def execSneReg (x y : Nibble) (s : State) : Result := .next (s.skipIf (s.getV x != s.getV y))

/-- `EX9E` SKP: skip if key[V[X]] is pressed; KeyIndexOutOfRange when V[X] >= 16 (42_skips R144;
notes/assumptions/11.md). -/
def execSkp (x : Nibble) (s : State) : Result :=
  if h : (s.getV x).toNat < 16 then .next (s.skipIf s.key[(s.getV x).toNat])
  else s.raise (.keyIndexOutOfRange s.instrAddr (encode (.skp x)) (s.getV x))

/-- `EXA1` SKNP: skip if key[V[X]] is not pressed; KeyIndexOutOfRange when V[X] >= 16 (42_skips R145;
notes/assumptions/11.md). -/
def execSknp (x : Nibble) (s : State) : Result :=
  if h : (s.getV x).toNat < 16 then .next (s.skipIf !s.key[(s.getV x).toNat])
  else s.raise (.keyIndexOutOfRange s.instrAddr (encode (.sknp x)) (s.getV x))

end Sys2Proof.Machine
end

