-- ==== Sys2Proof/Machine/TimersKeys.lean ====
section
/-! DEFINITION. Timer and key-wait instructions: FX07, FX0A, FX15, FX18 (46_timers_keys). On entry pc = a + 2. -/

namespace Sys2Proof.Machine

/-- `FX07` LD Vx, DT: V[X] <- DT (46_timers_keys R220). -/
def execLdVxDt (x : Nibble) (s : State) : Result := .next (s.setV x s.dt)

/-- `FX0A` LD Vx, K: V[X] <- the least pressed key; while none is pressed, pc <- pc - 2, so that the next execute_one
fetches this instruction again (46_timers_keys R221; notes/assumptions/18.md). -/
def execLdVxK (x : Nibble) (s : State) : Result :=
  match s.leastPressed with
  | some k => .next (s.setV x (BitVec.ofNat 8 k.val))
  | none => .next (s.setPc (s.pc - 2))

/-- `FX15` LD DT, Vx: DT <- V[X] (46_timers_keys R222). -/
def execLdDtVx (x : Nibble) (s : State) : Result := .next (s.setDt (s.getV x))

/-- `FX18` LD ST, Vx: ST <- V[X] (46_timers_keys R223). -/
def execLdStVx (x : Nibble) (s : State) : Result := .next (s.setSt (s.getV x))

end Sys2Proof.Machine
end

