-- ==== Sys2Proof/Machine/Fetch.lean ====
section
/-! DEFINITION. Fetch and decode, the front half of execute_one (40_execute_cycle R100 to R103). -/

namespace Sys2Proof.Machine

/-- What fetch and decode give: an instruction to perform in a state whose pc has advanced, or the state a fault left. -/
inductive Fetched where
  | perform (i : Instr) (s : State)
  | faulted (s : State)
deriving DecidableEq, Repr

/-- The word at pc, big-endian; none when pc + 1 >= 4096 (40_execute_cycle R101, R102; 20_memory R54). -/
def State.fetchWord (s : State) : Option Word :=
  if s.pc.toNat + 1 ≥ 4096 then none
  else some (wordOfBytes (s.readByte s.pc.toNat) (s.readByte (s.pc.toNat + 1)))

/-- Fetch, advance pc by 2, decode: FetchOutOfBounds and UnrecognizedOpcode are raised here, in this order, and leave
pc where it was (40_execute_cycle R100, R106; 60_exceptions R243). -/
def State.fetchDecode (s : State) : Fetched :=
  match s.fetchWord with
  | none => .faulted (s.takeFault (.fetchOutOfBounds s.pc))
  | some w =>
    match decodeWord w with
    | .unrecognized u => .faulted (s.takeFault (.unrecognizedOpcode s.pc u))
    | .instr i => .perform i (s.setPc (s.pc + 2))

/-- The state with a word stored, big-endian, at the address that pc holds, and able to fetch it: `fault` is none
(40_execute_cycle R100). Nothing else is changed. -/
def State.placeWord (s : State) (w : Word) : State :=
  { s.storeBytes s.pc.toNat [highByte w, lowByte w] with fault := none }

end Sys2Proof.Machine
end

