-- ==== Sys2Proof/Machine/Step.lean ====
section
/-! DEFINITION. One step of the engine: one execute_one (40_execute_cycle R100). -/

namespace Sys2Proof.Machine

/-- `execute_one()`: while `fault` is set, no state changes and the record is returned again (R107); else fetch, decode
and perform (R100). A step that raises a fault answers the next state with `fault` set (R106; notes/assumptions/4.md). -/
def step (s : State) : Host.Outcome State Fault Refusal :=
  match s.fault with
  | some r => .fault (.stopped r)
  | none =>
    match s.fetchDecode with
    | .faulted t => .next t
    | .perform i t => exec i t

/-- The state with the word `w`, of `nbits` bits as the opcode table numbers them, stored where `step` fetches its next
instruction: at pc (notes/assumptions/8.md). -/
def State.withFetchWord (s : State) (nbits w : Nat) : State := s.placeWord (tableWord nbits w)

end Sys2Proof.Machine
end

