-- ==== Sys2Proof/Machine/HostOps.lean ====
section
/-! DEFINITION. The host interface: the operations of 60_exceptions R248, and any sequence of them as a run (R256;
notes/assumptions/6.md, 22.md). -/

namespace Sys2Proof.Machine

/-- A rejected host call; it changes no state and is no fault (60_exceptions R249). -/
inductive HostError where
  | loadTooLarge
  | keyIndexInvalid
deriving DecidableEq, Repr

/-- What a host operation gives back (60_exceptions R248). -/
inductive Reply where
  | ok
  | fault (r : FaultRecord)
  | error (e : HostError)
  | tone (on : Bool)
  | pixels (fb : Framebuffer)
  | refused (r : Refusal)
deriving DecidableEq, Repr

/-- A move of the host: one of the operations it may call at any time, in any order (60_exceptions R248, R250). -/
inductive Move where
  | construct
  | load (rom : List Byte)
  | reset
  | setKey (k : Nat) (pressed : Bool)
  | executeOne
  | advanceTimers
  | display
deriving DecidableEq, Repr

/-- `reset()`: the whole state to its values after construction, whatever it held; the random source and the
configuration are not touched (70_reset_and_hazards R281; notes/assumptions/21.md). -/
def State.hostReset (s : State) : State := { State.construct s.params with draws := s.draws }

/-- `load(rom)`: the ROM copied to 0x200 up, nothing else changed; LoadTooLarge, and nothing written, when it is longer
than 3584 bytes (70_reset_and_hazards R283, R284; notes/assumptions/19.md). -/
def State.hostLoad (s : State) (rom : List Byte) : State × Reply :=
  if rom.length ≤ 3584 then (s.storeBytes 0x200 rom, .ok) else (s, .error .loadTooLarge)

/-- `set_key(k, p)`: key[k] <- p; KeyIndexInvalid, and nothing changed, when k >= 16 (60_exceptions R253, R249). -/
def State.hostSetKey (s : State) (k : Nat) (pressed : Bool) : State × Reply :=
  if h : k < 16 then ({ s with key := s.key.set k pressed h }, .ok) else (s, .error .keyIndexInvalid)

/-- A timer after one tick: down by 1 if above 0 (60_exceptions R251). -/
def tickDown (b : Byte) : Byte := if b.toNat > 0 then b - 1 else b

/-- `advance_timers()`: both timers tick; the tone is on exactly when ST = 1 at entry, and runs whether or not `fault` is
set (60_exceptions R251, R252; notes/assumptions/17.md). -/
def State.hostTick (s : State) : State × Reply :=
  ({ s with dt := tickDown s.dt, st := tickDown s.st }, .tone (s.st == 1))

/-- `execute_one()` as the host sees it: the step's state, and ok or the fault record (40_execute_cycle R100, R107). -/
def State.hostExecute (s : State) : State × Reply :=
  match step s with
  | .next t => match t.fault with
    | none => (t, .ok)
    | some r => (t, .fault r)
  | .fault (.stopped r) => (s, .fault r)
  | .refused r => (s, .refused r)

/-- One host operation: the state it leaves and what it gives back (60_exceptions R248). -/
def hostMove (m : Move) (s : State) : State × Reply :=
  match m with
  | .construct => (s.hostReset, .ok)
  | .load rom => s.hostLoad rom
  | .reset => (s.hostReset, .ok)
  | .setKey k p => s.hostSetKey k p
  | .executeOne => s.hostExecute
  | .advanceTimers => s.hostTick
  | .display => (s, .pixels s.fb)

/-- A finite run: the state after a finite sequence of host operations, each running to completion before the next
(60_exceptions R256). -/
def hostRun : List Move → State → State
  | [], s => s
  | m :: ms, s => hostRun ms (hostMove m s).1

/-- An infinite run: `ms n` is the host's n-th operation, counted from 0, and `hostTrace ms s n` the state when the first
n of them have completed (60_exceptions R256: a run is a finite or infinite sequence of host operations). -/
def hostTrace (ms : Nat → Move) (s : State) : Nat → State
  | 0 => s
  | n + 1 => (hostMove (ms n) (hostTrace ms s n)).1

end Sys2Proof.Machine
end

