-- ==== Sys2Proof/Safety.lean ====
section
/-! DEFINITION. What a safe run is, and the predicates claims are written in: the state's invariant, the fault a step is
due, the engine's idle and waiting states, and what a sprite covers. -/

namespace Sys2Proof.Machine

/-- The word at pc, big-endian (20_memory R54). -/
def State.wordAtPc (s : State) : Word :=
  wordOfBytes (s.readByte s.pc.toNat) (s.readByte (s.pc.toNat + 1))

/-- The engine is running: no fault is set. A safe run keeps this. -/
abbrev State.Running (s : State) : Prop := s.fault = none

/-- A fetch at pc lies inside memory (40_execute_cycle R102). -/
abbrev State.CanFetch (s : State) : Prop := s.pc.toNat + 1 < 4096

/-- The next `execute_one` performs instruction `i`: the engine runs, the fetch is inside memory, and the word there
decodes to `i` (40_execute_cycle R100). -/
abbrev State.AboutTo (s : State) (i : Instr) : Prop :=
  s.Running ∧ s.CanFetch ∧ decodeWord s.wordAtPc = .instr i

/-- The invariant of the engine: memory is in canonical form, pc is at most 0x10FE, the largest value any instruction
can write (10_state R25), and every stack entry is at most 0x1000, the largest return address (41_control_flow R121). -/
abbrev State.Inv (s : State) : Prop :=
  Memory.wf s.params.font s.mem ∧ s.pc.toNat ≤ 0x10FE ∧ ∀ k : Fin 16, s.stack[k.val].toNat ≤ 0x1000

/-- Idle: no fault, and the word at pc is a 1NNN whose target is its own address (40_execute_cycle R111). -/
abbrev State.Idle (s : State) : Prop :=
  s.Running ∧ s.pc.toNat ≤ 0xFFE ∧ s.wordAtPc = 0x1000 ||| s.pc

/-- Waiting: the word at pc is FX0A and every key is released (46_timers_keys R224). -/
abbrev State.Waiting (s : State) : Prop :=
  (∃ x, s.AboutTo (.ldVxK x)) ∧ ∀ k : Fin 16, s.key[k.val] = false

/-- Memory reads the same at every address. -/
abbrev State.SameMemory (s t : State) : Prop := ∀ a, t.readByte a = s.readByte a

/-- Memory reads the same at every address outside [lo, lo + len). -/
abbrev State.SameMemoryOutside (s t : State) (lo len : Nat) : Prop :=
  ∀ a, ¬ (lo ≤ a ∧ a < lo + len) → t.readByte a = s.readByte a

/-- The number of bytes an instruction accesses from I up, if it accesses memory (20_memory R51). -/
def accessLength : Instr → Option Nat
  | .drw _ _ n => some n.toNat
  | .ldBVx _ => some 3
  | .ldMemVx x => some (x.toNat + 1)
  | .ldVxMem x => some (x.toNat + 1)
  | _ => none

/-- Whether instruction `i` may write V[k]: its destination X, and VF where its pseudocode writes VF (40_execute_cycle R108;
43_alu R160 to R172, 44_index_memory R195, 45_display R211, 46_timers_keys R220, R221). -/
def writesV (i : Instr) (k : Nibble) : Bool :=
  match i with
  | .ldImm x _ | .addImm x _ | .rnd x _ | .ldReg x _ | .or x _ | .and x _ | .xor x _ | .ldVxDt x | .ldVxK x => k == x
  | .addReg x _ | .sub x _ | .shr x _ | .subn x _ | .shl x _ => k == x || k == 0xF
  | .drw _ _ _ => k == 0xF
  | .ldVxMem x => decide (k.toNat ≤ x.toNat)
  | .nop | .cls | .ret | .jp _ | .call _ | .seImm _ _ | .sneImm _ _ | .seReg _ _ | .sneReg _ _ | .ldI _ | .jpV0 _ => false
  | .skp _ | .sknp _ | .ldDtVx _ | .ldStVx _ | .addIVx _ | .ldFVx _ | .ldBVx _ | .ldMemVx _ => false

/-- The fault instruction `i`, whose word is `w`, raises in state `s`, whose pc is its address; none when it raises no
fault: the rows of 60_exceptions R240 for codes 3 to 6. -/
def State.instrFault (s : State) (i : Instr) (w : Word) : Option FaultRecord :=
  match i with
  | .ret => if s.sp.val = 0 then some (.stackUnderflow s.pc w) else none
  | .call _ => if s.sp.val = 16 then some (.stackOverflow s.pc w) else none
  | .skp x => if (s.getV x).toNat ≥ 16 then some (.keyIndexOutOfRange s.pc w (s.getV x)) else none
  | .sknp x => if (s.getV x).toNat ≥ 16 then some (.keyIndexOutOfRange s.pc w (s.getV x)) else none
  | i =>
    match accessLength i with
    | some n => if s.index.toNat + n > 4096 then some (.memoryOutOfBounds s.pc w s.index n) else none
    | none => none

/-- The fault the next `execute_one` of a running engine raises, if any: the fetch first, then the decode, then the
instruction's own check (60_exceptions R240, R243). -/
def State.faultDue (s : State) : Option FaultRecord :=
  if s.pc.toNat + 1 ≥ 4096 then some (.fetchOutOfBounds s.pc)
  else match decodeWord s.wordAtPc with
    | .unrecognized w => some (.unrecognizedOpcode s.pc w)
    | .instr i => s.instrFault i s.wordAtPc

/-- The pixel at column x mod 64 and row y mod 32: true for lit (10_state R32). -/
def State.pixel (s : State) (x y : Nat) : Bool := s.fb[(pixelIndex x y).val]

/-- The sprite of `n` rows at memory address `a`, drawn from (x0, y0), has a set bit on pixel (px, py), each coordinate
wrapping on its own: the pixel is at column offset c = px - x0 mod 64 < 8 and row offset r = py - y0 mod 32 < n, and bit
7 - c of byte a + r is set (45_display R211, R212). -/
def State.spriteCovers (s : State) (a x0 y0 n px py : Nat) : Bool :=
  let c := (px % 64 + 64 - x0 % 64) % 64
  let r := (py % 32 + 32 - y0 % 32) % 32
  decide (c < 8) && decide (r < n) && (s.readByte (a + r)).getLsbD (7 - c)

end Sys2Proof.Machine
end

