-- ==== Sys2Proof/Certificates/Slice0/Obligations.lean ====
section
/-! DEFINITION. The statements for the provers. A meaning runs with pc = a + 2, where a is the instruction's own address
(40_execute_cycle R104): in a statement about `exec`, the pc of `s` is a + 2. `t = { s with f := t.f, … }` says that
every field of the state but those named is unchanged, and `SameMemory` that every byte reads as before. -/

open Sys2Proof Sys2Proof.Machine

/-! ## Encoding and decoding -/

/-- Decoding the word of an instruction gives it back, every operand at every value its field admits, and so does
decoding its bytes with anything after them (30_encoding §1 to §3). -/
def Obligations.DecodeInvertsEncode : Prop :=
  ∀ (i : Instr) (rest : List Byte),
    decodeWord (encode i) = .instr i ∧ decodeBytes (encodeBytes i ++ rest) = .ok (i, rest)

/-- Each legal word is the word of the one instruction it decodes to, so decoding drops no bit, the field Y that SHR and
SHL do not read included (30_encoding §1 to §3). -/
def Obligations.EncodeInvertsDecode : Prop :=
  ∀ (w : Word) (i : Instr), decodeWord w = .instr i → encode i = w

/-- A word decodes to the instruction of a row exactly when (w AND mask) = match (30_encoding §3). That every fixed digit
is required is the spec's own decision D1 (notes/assumptions/9.md). -/
def Obligations.DecoderFollowsMaskAndMatch : Prop :=
  ∀ (w : Word) (r : OpcodeRow), r ∈ opcodeTable →
    (r.Matches w ↔ ∃ i, decodeWord w = .instr i ∧ i.rowNumber = r.number)

/-- Every word decodes to exactly one instruction, and then it is legal, or to "unrecognized" with the word attached, and
then it is not (30_encoding §4; which words are legal is the spec's own decision D1, notes/assumptions/9.md). -/
def Obligations.DecoderIsTotal : Prop :=
  ∀ w : Word,
    (∃ i, decodeWord w = .instr i ∧ wordLegal w = true) ∨ (decodeWord w = .unrecognized w ∧ wordLegal w = false)

/-- No word matches two rows of the opcode map, which the spec marks as derived from the map (30_encoding §3). -/
def Obligations.OpcodeRowsDisjoint : Prop :=
  ∀ (w : Word) (r q : OpcodeRow), r ∈ opcodeTable → q ∈ opcodeTable → r.Matches w → q.Matches w → r = q

/-- R81: the fields of a word, as numbers. -/
def Obligations.WordFields : Prop :=
  ∀ w : Word,
    (fieldD1 w).toNat = w.toNat / 4096 ∧ (fieldX w).toNat = w.toNat / 256 % 16 ∧
      (fieldY w).toNat = w.toNat / 16 % 16 ∧ (fieldN w).toNat = w.toNat % 16 ∧
      (fieldNN w).toNat = w.toNat % 256 ∧ (fieldNNN w).toNat = w.toNat % 4096

/-- Words written out in the spec decode to what they stand for, and words it calls illegal do not (95_test_vectors §1,
§2; one word of each family). -/
def Obligations.WrittenWordsDecode : Prop :=
  decodeWord 0x00EE = .instr .ret ∧ decodeWord 0x220A = .instr (.call 0x20A) ∧
    decodeWord 0x312A = .instr (.seImm 0x1 0x2A) ∧ decodeWord 0x6A7B = .instr (.ldImm 0xA 0x7B) ∧
    decodeWord 0x8F04 = .instr (.addReg 0xF 0x0) ∧ decodeWord 0x8456 = .instr (.shr 0x4 0x5) ∧
    decodeWord 0xF155 = .instr (.ldMemVx 0x1) ∧ decodeWord 0xD015 = .instr (.drw 0x0 0x1 0x5) ∧
    decodeWord 0xF30A = .instr (.ldVxK 0x3) ∧ decodeWord 0x0123 = .unrecognized 0x0123 ∧
    decodeWord 0x5121 = .unrecognized 0x5121 ∧ decodeWord 0xE19F = .unrecognized 0xE19F

/-! ## The execute cycle -/

/-- R101: the fetch reads the word at pc as (high << 8) | low and advances pc by 2, which never wraps, with no other side
effect. When the engine runs and that word decodes to i, a step is i performed in the state this leaves
(40_execute_cycle §1). -/
def Obligations.StepRunsDecodedInstruction : Prop :=
  ∀ (s : State) (i : Instr), s.AboutTo i →
    step s = exec i { s with pc := s.pc + 2 } ∧ (s.pc + 2).toNat = s.pc.toNat + 2 ∧
      s.wordAtPc.toNat = 256 * (s.readByte s.pc.toNat).toNat + (s.readByte (s.pc.toNat + 1)).toNat

/-- A fetch faults when pc + 1 >= 4096: FetchOutOfBounds with pc recorded, nothing else changed. That the record is kept
as state and the rest rolled back is the spec's own decision D6 (notes/assumptions/4.md, 12.md). -/
def Obligations.FetchPastMemoryFaults : Prop :=
  ∀ s : State, s.Running → s.pc.toNat + 1 ≥ 4096 →
    step s = .next { s with fault := some (.fetchOutOfBounds s.pc) }

/-- A word that matches no row raises UnrecognizedOpcode with pc and the word recorded, nothing else changed
(30_encoding §4, decision D1; 40_execute_cycle §1, decision D6; notes/assumptions/9.md, 12.md). -/
def Obligations.IllegalWordFaults : Prop :=
  ∀ s : State, s.Running → s.CanFetch → wordLegal s.wordAtPc = false →
    step s = .next { s with fault := some (.unrecognizedOpcode s.pc s.wordAtPc) }

/-- While `fault` is set, a step runs nothing and returns the record again, and so it does as a host call, which leaves
the state as it was (40_execute_cycle §1, decision D6; that `step` says so by the outcome `stopped` is the model's
choice, notes/assumptions/4.md). -/
def Obligations.FaultedEngineRunsNothing : Prop :=
  ∀ (s : State) (r : FaultRecord), s.fault = some r →
    step s = .fault (.stopped r) ∧ hostMove .executeOne s = (s, .fault r)

/-- A step that raises a fault changes nothing but `fault`, whatever the instruction: pc is the faulting instruction's
address again, the record holds that address, and the word fetched unless the fetch failed (40_execute_cycle §1,
decision D6; 60_exceptions §1). -/
def Obligations.FaultingStepChangesOnlyFault : Prop :=
  ∀ (s t : State) (r : FaultRecord), s.Running → step s = .next t → t.fault = some r →
    t = { s with fault := some r } ∧ r.instrPc = s.pc ∧
      r.opcode = if s.CanFetch then some s.wordAtPc else none

/-- A step of a running engine always answers a next state, and it faults exactly as the table of faults says: the
fetch first, then the decode, then the instruction's own check, and on no other condition (60_exceptions §1, §2;
decisions D4, D5, D7, D18, D28). -/
def Obligations.StepFaultsExactlyWhenDue : Prop :=
  ∀ s : State, s.Running → ∃ t, step s = .next t ∧ t.fault = s.faultDue

/-- The host's execute_one is a step: it leaves the state the step answers, and gives back ok when no fault is set there
and the record when one is (40_execute_cycle §1, 60_exceptions §4); so in every state, a faulted one too, it gives back
the record of the fault that is set afterwards, or ok (decision D6). -/
def Obligations.ExecuteOneReportsFault : Prop :=
  ∀ s : State,
    (∀ t, step s = .next t →
      (t.fault = none → hostMove .executeOne s = (t, .ok)) ∧
      (∀ r, t.fault = some r → hostMove .executeOne s = (t, .fault r))) ∧
    (hostMove .executeOne s).2 =
      match (hostMove .executeOne s).1.fault with
      | none => .ok
      | some r => .fault r

/-- The frame of a step, over all instructions (40_execute_cycle §1, decision D15): no instruction writes `key` or the
parameters; `DT` changes only in FX15, `ST` only in FX18, `I` only in ANNN, FX1E and FX29; `sp` and `stack` only in 2NNN
and 00EE; `fb` only in 00E0 and DXYN; memory only in FX33 and FX55; a random byte is drawn, exactly one, only by
CXNN; and a V register, VF included, changes only where the instruction's pseudocode writes it (`writesV`). -/
def Obligations.StepFrameByInstruction : Prop :=
  ∀ (s t : State) (i : Instr), s.AboutTo i → step s = .next t →
    t.key = s.key ∧ t.params = s.params ∧
      (t.dt = s.dt ∨ ∃ x, i = .ldDtVx x) ∧ (t.st = s.st ∨ ∃ x, i = .ldStVx x) ∧
      (t.index = s.index ∨ (∃ n, i = .ldI n) ∨ (∃ x, i = .addIVx x) ∨ ∃ x, i = .ldFVx x) ∧
      (t.sp = s.sp ∧ t.stack = s.stack ∨ (∃ n, i = .call n) ∨ i = .ret) ∧
      (t.fb = s.fb ∨ i = .cls ∨ ∃ x y n, i = .drw x y n) ∧
      (s.SameMemory t ∨ (∃ x, i = .ldBVx x) ∨ ∃ x, i = .ldMemVx x) ∧
      (t.draws = s.draws ∧ (∀ x nn, i ≠ .rnd x nn) ∨ t.draws = s.draws + 1 ∧ ∃ x nn, i = .rnd x nn) ∧
      ∀ k, writesV i k = false → t.getV k = s.getV k

/-- An idle engine stays idle: a step changes nothing at all (40_execute_cycle §3, decision D23). -/
def Obligations.IdleStepChangesNothing : Prop :=
  ∀ s : State, s.Idle → step s = .next s

/-! ## Invariants -/

/-- Every step keeps the invariant: memory stays canonical, pc stays at most 0x10FE and return addresses at most 0x1000
(10_state §3, derived there; 41_control_flow R121's corner cases). -/
def Obligations.StepKeepsInvariant : Prop :=
  ∀ s t : State, s.Inv → step s = .next t → t.Inv

/-- The invariant holds at reset, and right after construction with any parameters. -/
def Obligations.ResetHasInvariant : Prop :=
  State.reset.Inv ∧ ∀ p : Config.Params, (State.construct p).Inv

/-- Every run of host operations, finite or infinite, keeps the invariant: it holds at the end of a finite run, and at
every point of an infinite one (60_exceptions §4: a run is any finite or infinite sequence of host operations, decision
D11). -/
def Obligations.HostRunKeepsInvariant : Prop :=
  ∀ s : State, s.Inv →
    (∀ ms : List Move, (hostRun ms s).Inv) ∧ ∀ (ms : Nat → Move) (n : Nat), (hostTrace ms s n).Inv

/-! ## Control flow -/

/-- 0000 does nothing (41_control_flow §R120: "nothing; pc stays a + 2"). -/
def Obligations.NopChangesNothing : Prop :=
  ∀ s : State, exec .nop s = .next s

/-- R122: 1NNN sets pc to NNN and changes nothing else. -/
def Obligations.JumpSetsPc : Prop :=
  ∀ (nnn : Addr12) (s : State), ∃ t, exec (.jp nnn) s = .next t ∧ t.pc.toNat = nnn.toNat ∧
    t = { s with pc := t.pc } ∧ s.SameMemory t

/-- BNNN sets pc to V0 + NNN, neither wrapped nor reduced to 12 bits, and changes nothing else (41_control_flow,
decision D16; notes/assumptions/15.md). -/
def Obligations.JumpV0AddsWithoutWrap : Prop :=
  ∀ (nnn : Addr12) (s : State), ∃ t, exec (.jpV0 nnn) s = .next t ∧
    t.pc.toNat = (s.getV 0x0).toNat + nnn.toNat ∧ t = { s with pc := t.pc } ∧ s.SameMemory t

/-- With fewer than 16 entries pushed, 2NNN stores pc, the address after the call, in stack[sp], adds 1 to sp, jumps to
NNN, and changes nothing else (41_control_flow, 10_state §5; decisions D4, D22). -/
def Obligations.CallPushesReturnAddress : Prop :=
  ∀ (nnn : Addr12) (s : State), s.sp.val < 16 → ∃ t, exec (.call nnn) s = .next t ∧
    t.pc.toNat = nnn.toNat ∧ t.sp.val = s.sp.val + 1 ∧
    (∀ k : Fin 16, t.stack[k.val] = if k.val = s.sp.val then s.pc else s.stack[k.val]) ∧
    t = { s with pc := t.pc, sp := t.sp, stack := t.stack } ∧ s.SameMemory t

/-- With an entry pushed, 00EE subtracts 1 from sp, sets pc to the entry stack[sp], and changes nothing else: the entry
stays (41_control_flow, 10_state §5; decisions D4, D22). -/
def Obligations.ReturnPopsReturnAddress : Prop :=
  ∀ (s : State) (k : Fin 16), s.sp.val = k.val + 1 → ∃ t, exec .ret s = .next t ∧
    t.pc = s.stack[k.val] ∧ t.sp.val = k.val ∧ t = { s with pc := t.pc, sp := t.sp } ∧ s.SameMemory t

/-- A call with 16 entries pushed, and a return with none, raise their faults with the instruction's address and word,
and change nothing but `fault` (41_control_flow, 60_exceptions §1; decisions D4, D6). -/
def Obligations.StackFaults : Prop :=
  ∀ (nnn : Addr12) (s : State),
    (s.sp.val = 16 → exec (.call nnn) s =
      .next { s with pc := s.pc - 2, fault := some (.stackOverflow (s.pc - 2) (encode (.call nnn))) }) ∧
    (s.sp.val = 0 → exec .ret s =
      .next { s with pc := s.pc - 2, fault := some (.stackUnderflow (s.pc - 2) 0x00EE) })

/-- A return undoes a call: it resumes at the instruction after the call with sp as it was, whatever the called code did
to anything but the stack and sp (41_control_flow R123's corner case "RET resumes at the instruction after the call";
decisions D4, D22). -/
def Obligations.ReturnUndoesCall : Prop :=
  ∀ (nnn : Addr12) (s t u : State), s.sp.val < 16 → exec (.call nnn) s = .next t →
    u.sp = t.sp → u.stack = t.stack → ∃ r, exec .ret u = .next r ∧ r.pc = s.pc ∧ r.sp = s.sp

/-! ## Skips -/

/-- R140, R141: 3XNN skips exactly when V[X] = NN, 4XNN exactly when V[X] != NN; a skip adds 2 to pc, and nothing else
changes. -/
def Obligations.SkipOnImmediate : Prop :=
  ∀ (x : Nibble) (nn : Byte) (s : State),
    (∃ t, exec (.seImm x nn) s = .next t ∧ t.pc = (if s.getV x = nn then s.pc + 2 else s.pc) ∧
      t = { s with pc := t.pc } ∧ s.SameMemory t) ∧
    (∃ t, exec (.sneImm x nn) s = .next t ∧ t.pc = (if s.getV x = nn then s.pc else s.pc + 2) ∧
      t = { s with pc := t.pc } ∧ s.SameMemory t)

/-- 5XY0 skips exactly when V[X] = V[Y], 9XY0 exactly when they differ, and nothing else changes (42_skips; that d4 must
be 0 is decision D1). -/
def Obligations.SkipOnRegisters : Prop :=
  ∀ (x y : Nibble) (s : State),
    (∃ t, exec (.seReg x y) s = .next t ∧ t.pc = (if s.getV x = s.getV y then s.pc + 2 else s.pc) ∧
      t = { s with pc := t.pc } ∧ s.SameMemory t) ∧
    (∃ t, exec (.sneReg x y) s = .next t ∧ t.pc = (if s.getV x = s.getV y then s.pc else s.pc + 2) ∧
      t = { s with pc := t.pc } ∧ s.SameMemory t)

/-- With V[X] the index k of a key, EX9E skips exactly when key k is pressed and EXA1 exactly when it is not; neither
changes anything but pc (42_skips; the bound on V[X] is decision D7). -/
def Obligations.SkipOnKey : Prop :=
  ∀ (x : Nibble) (s : State) (k : Fin 16), (s.getV x).toNat = k.val →
    (∃ t, exec (.skp x) s = .next t ∧ t.pc = (if s.key[k.val] = true then s.pc + 2 else s.pc) ∧
      t = { s with pc := t.pc } ∧ s.SameMemory t) ∧
    (∃ t, exec (.sknp x) s = .next t ∧ t.pc = (if s.key[k.val] = true then s.pc else s.pc + 2) ∧
      t = { s with pc := t.pc } ∧ s.SameMemory t)

/-- With V[X] >= 16, EX9E and EXA1 raise KeyIndexOutOfRange with the instruction's address, its word and V[X], and change
nothing but `fault` (42_skips, 60_exceptions §1; decisions D6, D7; notes/assumptions/11.md). -/
def Obligations.KeyIndexFaults : Prop :=
  ∀ (x : Nibble) (s : State), (s.getV x).toNat ≥ 16 →
    exec (.skp x) s = .next { s with
      pc := s.pc - 2, fault := some (.keyIndexOutOfRange (s.pc - 2) (encode (.skp x)) (s.getV x)) } ∧
    exec (.sknp x) s = .next { s with
      pc := s.pc - 2, fault := some (.keyIndexOutOfRange (s.pc - 2) (encode (.sknp x)) (s.getV x)) }

/-! ## Registers and arithmetic -/

/-- R160, R162: 6XNN writes NN to V[X], 8XY0 writes V[Y] to V[X], X = F included, and nothing else changes. -/
def Obligations.LoadRegister : Prop :=
  ∀ (x y : Nibble) (nn : Byte) (s : State),
    (∃ t, exec (.ldImm x nn) s = .next t ∧ (∀ k, t.getV k = if k = x then nn else s.getV k) ∧
      t = { s with v := t.v } ∧ s.SameMemory t) ∧
    (∃ t, exec (.ldReg x y) s = .next t ∧ (∀ k, t.getV k = if k = x then s.getV y else s.getV k) ∧
      t = { s with v := t.v } ∧ s.SameMemory t)

/-- R161: 7XNN writes (V[X] + NN) mod 256 to V[X]; no other register, VF included when X is not F, and nothing else
changes. -/
def Obligations.AddImmediateWraps : Prop :=
  ∀ (x : Nibble) (nn : Byte) (s : State), ∃ t, exec (.addImm x nn) s = .next t ∧
    (t.getV x).toNat = ((s.getV x).toNat + nn.toNat) % 256 ∧ (∀ k, k ≠ x → t.getV k = s.getV k) ∧
    t = { s with v := t.v } ∧ s.SameMemory t

/-- R164, R165: 8XY2 and 8XY3 write the AND and the XOR of V[X] and V[Y], bit by bit, to V[X]; no other register, VF
included when X is not F, and nothing else changes. -/
def Obligations.AndXorBitwise : Prop :=
  ∀ (x y : Nibble) (s : State),
    (∃ t, exec (.and x y) s = .next t ∧
      (∀ b, (t.getV x).getLsbD b = ((s.getV x).getLsbD b && (s.getV y).getLsbD b)) ∧
      (∀ k, k ≠ x → t.getV k = s.getV k) ∧ t = { s with v := t.v } ∧ s.SameMemory t) ∧
    (∃ t, exec (.xor x y) s = .next t ∧
      (∀ b, (t.getV x).getLsbD b = ((s.getV x).getLsbD b ^^ (s.getV y).getLsbD b)) ∧
      (∀ k, k ≠ x → t.getV k = s.getV k) ∧ t = { s with v := t.v } ∧ s.SameMemory t)

/-- 8XY1 writes the OR of V[X] and V[Y] to V[X] while CFG_8XY1_Y_IS_X is false, and leaves V[X] as it was while the switch
is true; nothing else changes under either reading (43_alu §2, decision D2; that the switch is a field of State is the
model's choice, notes/assumptions/3.md). -/
def Obligations.OrUnderEitherSwitch : Prop :=
  ∀ (x y : Nibble) (s : State), ∃ t, exec (.or x y) s = .next t ∧
    (s.params.orYIsX = false → ∀ b, (t.getV x).getLsbD b = ((s.getV x).getLsbD b || (s.getV y).getLsbD b)) ∧
    (s.params.orYIsX = true → t.getV x = s.getV x) ∧
    (∀ k, k ≠ x → t.getV k = s.getV k) ∧ t = { s with v := t.v } ∧ s.SameMemory t

/-- R173: for X other than F, with x = V[X] and y = V[Y] before: 8XY4 gives (x + y) mod 256 and VF = 1 exactly when
x + y > 255; 8XY5 gives (x - y) mod 256 and VF = 1 exactly when x >= y; 8XY7 gives (y - x) mod 256 and VF = 1 exactly when
y < x. So at x = y, VF is 1 only for x >= 0x80, is 1, and is 0. No other register and nothing else changes. The form
X = F is `ArithmeticOnVfLeavesFlag`. -/
def Obligations.ArithmeticFlagPolarity : Prop :=
  ∀ (x y : Nibble) (s : State), x ≠ 0xF →
    let a := (s.getV x).toNat
    let b := (s.getV y).toNat
    (∃ t, exec (.addReg x y) s = .next t ∧ (t.getV x).toNat = (a + b) % 256 ∧
      t.getV 0xF = (if a + b > 255 then 1 else 0) ∧ (a = b → (t.getV 0xF = 1 ↔ a ≥ 0x80)) ∧
      (∀ k, k ≠ x → k ≠ 0xF → t.getV k = s.getV k) ∧ t = { s with v := t.v } ∧ s.SameMemory t) ∧
    (∃ t, exec (.sub x y) s = .next t ∧ ((t.getV x).toNat : Int) = ((a : Int) - b) % 256 ∧
      t.getV 0xF = (if a ≥ b then 1 else 0) ∧ (a = b → t.getV 0xF = 1) ∧
      (∀ k, k ≠ x → k ≠ 0xF → t.getV k = s.getV k) ∧ t = { s with v := t.v } ∧ s.SameMemory t) ∧
    (∃ t, exec (.subn x y) s = .next t ∧ ((t.getV x).toNat : Int) = ((b : Int) - a) % 256 ∧
      t.getV 0xF = (if b < a then 1 else 0) ∧ (a = b → t.getV 0xF = 0) ∧
      (∀ k, k ≠ x → k ≠ 0xF → t.getV k = s.getV k) ∧ t = { s with v := t.v } ∧ s.SameMemory t)

/-- With X = F, 8XY4, 8XY5 and 8XY7 leave the flag in VF, computed from the values before any write, and change nothing
else: the flag is written last (43_alu §3, §4; the spec's own decision D3, notes/assumptions/10.md). -/
def Obligations.ArithmeticOnVfLeavesFlag : Prop :=
  ∀ (y : Nibble) (s : State),
    let a := (s.getV 0xF).toNat
    let b := (s.getV y).toNat
    (∃ t, exec (.addReg 0xF y) s = .next t ∧
      (∀ k, t.getV k = if k = 0xF then (if a + b > 255 then 1 else 0) else s.getV k) ∧
      t = { s with v := t.v } ∧ s.SameMemory t) ∧
    (∃ t, exec (.sub 0xF y) s = .next t ∧
      (∀ k, t.getV k = if k = 0xF then (if a ≥ b then 1 else 0) else s.getV k) ∧
      t = { s with v := t.v } ∧ s.SameMemory t) ∧
    (∃ t, exec (.subn 0xF y) s = .next t ∧
      (∀ k, t.getV k = if k = 0xF then (if b < a then 1 else 0) else s.getV k) ∧
      t = { s with v := t.v } ∧ s.SameMemory t)

/-- 8XY6 halves V[X] and puts its bit 0 in VF, for any Y; with X = F, VF ends as 0. Nothing else changes (43_alu §4; the
order of the writes is the spec's own decision D3, notes/assumptions/10.md). -/
def Obligations.ShiftRight : Prop :=
  ∀ (x y : Nibble) (s : State), ∃ t, exec (.shr x y) s = .next t ∧
    (x ≠ 0xF → (t.getV x).toNat = (s.getV x).toNat / 2 ∧ (t.getV 0xF).toNat = (s.getV x).toNat % 2) ∧
    (x = 0xF → t.getV 0xF = 0) ∧
    (∀ k, k ≠ x → k ≠ 0xF → t.getV k = s.getV k) ∧ t = { s with v := t.v } ∧ s.SameMemory t

/-- 8XYE doubles V[X] modulo 256 and puts its bit 7 in VF, for any Y; with X = F, VF ends as twice its old bit 7. Nothing
else changes (43_alu §4; the order of the writes is the spec's own decision D3, notes/assumptions/10.md). -/
def Obligations.ShiftLeft : Prop :=
  ∀ (x y : Nibble) (s : State), ∃ t, exec (.shl x y) s = .next t ∧
    (x ≠ 0xF → (t.getV x).toNat = 2 * (s.getV x).toNat % 256 ∧ (t.getV 0xF).toNat = (s.getV x).toNat / 128) ∧
    (x = 0xF → (t.getV 0xF).toNat = 2 * ((s.getV x).toNat / 128)) ∧
    (∀ k, k ≠ x → k ≠ 0xF → t.getV k = s.getV k) ∧ t = { s with v := t.v } ∧ s.SameMemory t

/-- CXNN writes one random byte AND NN to V[X], whatever the byte, and counts the draw; no bit outside NN is set, and
nothing else changes (43_alu §5, decision D10; the byte is a free value, notes/assumptions/1.md). -/
def Obligations.RandomIsMasked : Prop :=
  ∀ (x : Nibble) (nn : Byte) (s : State), ∃ t, exec (.rnd x nn) s = .next t ∧
    t.getV x = Config.randomByte s.draws &&& nn ∧ (t.getV x).toNat ≤ nn.toNat ∧
    (∀ b, nn.getLsbD b = false → (t.getV x).getLsbD b = false) ∧
    (∀ k, k ≠ x → t.getV k = s.getV k) ∧ t.draws = s.draws + 1 ∧
    t = { s with v := t.v, draws := t.draws } ∧ s.SameMemory t

/-! ## Index register and memory -/

/-- R190: ANNN sets I to NNN and changes nothing else. -/
def Obligations.LoadIndex : Prop :=
  ∀ (nnn : Addr12) (s : State), ∃ t, exec (.ldI nnn) s = .next t ∧ t.index.toNat = nnn.toNat ∧
    t = { s with index := t.index } ∧ s.SameMemory t

/-- FX1E sets I to (I + V[X]) mod 2^16, FX29 sets I to V[X] * 5, not masked; nothing else changes, VF included
(44_index_memory, decisions D15, D16; notes/assumptions/14.md, 15.md). -/
def Obligations.IndexArithmetic : Prop :=
  ∀ (x : Nibble) (s : State),
    (∃ t, exec (.addIVx x) s = .next t ∧ t.index.toNat = (s.index.toNat + (s.getV x).toNat) % 65536 ∧
      t = { s with index := t.index } ∧ s.SameMemory t) ∧
    (∃ t, exec (.ldFVx x) s = .next t ∧ t.index.toNat = (s.getV x).toNat * 5 ∧
      t = { s with index := t.index } ∧ s.SameMemory t)

/-- With I + 3 <= 4096, FX33 stores three digits, each at most 9, at I, I + 1 and I + 2, whose decimal value is V[X];
every other byte reads as before, and nothing but memory changes, I included (44_index_memory, decision D5). -/
def Obligations.BcdStoresDigits : Prop :=
  ∀ (x : Nibble) (s : State), s.index.toNat + 3 ≤ 4096 → ∃ t, exec (.ldBVx x) s = .next t ∧
    (t.readByte s.index.toNat).toNat ≤ 9 ∧ (t.readByte (s.index.toNat + 1)).toNat ≤ 9 ∧
    (t.readByte (s.index.toNat + 2)).toNat ≤ 9 ∧
    100 * (t.readByte s.index.toNat).toNat + 10 * (t.readByte (s.index.toNat + 1)).toNat
      + (t.readByte (s.index.toNat + 2)).toNat = (s.getV x).toNat ∧
    s.SameMemoryOutside t s.index.toNat 3 ∧ t = { s with mem := t.mem }

/-- With I + X + 1 <= 4096, FX55 stores V[k] at I + k for every k up to X; every other byte reads as before, and nothing
but memory changes, I included (44_index_memory, decisions D5, D15). -/
def Obligations.StoreRegisters : Prop :=
  ∀ (x : Nibble) (s : State), s.index.toNat + x.toNat + 1 ≤ 4096 → ∃ t, exec (.ldMemVx x) s = .next t ∧
    (∀ k : Nibble, k.toNat ≤ x.toNat → t.readByte (s.index.toNat + k.toNat) = s.getV k) ∧
    s.SameMemoryOutside t s.index.toNat (x.toNat + 1) ∧ t = { s with mem := t.mem }

/-- With I + X + 1 <= 4096, FX65 loads V[k] from I + k for every k up to X; the registers above VX and everything else
are unchanged, I included (44_index_memory, decisions D5, D15). -/
def Obligations.LoadRegisters : Prop :=
  ∀ (x : Nibble) (s : State), s.index.toNat + x.toNat + 1 ≤ 4096 → ∃ t, exec (.ldVxMem x) s = .next t ∧
    (∀ k : Nibble, t.getV k =
      if k.toNat ≤ x.toNat then s.readByte (s.index.toNat + k.toNat) else s.getV k) ∧
    t = { s with v := t.v } ∧ s.SameMemory t

/-- When the range [I, I + n) does not lie inside memory, DXYN (n = N), FX33 (n = 3), FX55 and FX65 (n = X + 1) raise
MemoryOutOfBounds with the instruction's address, its word, I and n, and change nothing but `fault`: no byte is written
(20_memory §5, 44_index_memory, 45_display; decisions D5, D6; notes/assumptions/11.md). -/
def Obligations.MemoryRangeFaults : Prop :=
  ∀ (i : Instr) (n : Nat) (s : State), accessLength i = some n → s.index.toNat + n > 4096 →
    exec i s = .next { s with
      pc := s.pc - 2, fault := some (.memoryOutOfBounds (s.pc - 2) (encode i) s.index n) }

/-- FX65 undoes FX55: loading from where V0 to VX were stored gives them back, whatever was in the registers in between
(44_index_memory, decisions D5, D15). -/
def Obligations.LoadUndoesStore : Prop :=
  ∀ (x : Nibble) (s t : State) (v : Vector Byte 16), s.index.toNat + x.toNat + 1 ≤ 4096 →
    exec (.ldMemVx x) s = .next t → ∃ u, exec (.ldVxMem x) { t with v := v } = .next u ∧
      ∀ k : Nibble, k.toNat ≤ x.toNat → u.getV k = s.getV k

/-- R287: a byte stored by FX33 or FX55 is fetched as the new value by the very next step: whatever byte either
instruction stores, a fetch of the word that begins or ends there reads that byte. FX55's byte k is V[k], FX33's bytes
are the decimal digits of V[X]. -/
def Obligations.FetchSeesStores : Prop :=
  ∀ (x : Nibble) (s t : State),
    (s.index.toNat + x.toNat + 1 ≤ 4096 → exec (.ldMemVx x) s = .next t → ∀ k : Nibble, k.toNat ≤ x.toNat →
      (t.pc.toNat = s.index.toNat + k.toNat → highByte t.wordAtPc = s.getV k) ∧
      (t.pc.toNat + 1 = s.index.toNat + k.toNat → lowByte t.wordAtPc = s.getV k)) ∧
    (s.index.toNat + 3 ≤ 4096 → exec (.ldBVx x) s = .next t → ∀ k : Fin 3,
      (t.pc.toNat = s.index.toNat + k.val →
        (highByte t.wordAtPc).toNat = (s.getV x).toNat / 10 ^ (2 - k.val) % 10) ∧
      (t.pc.toNat + 1 = s.index.toNat + k.val →
        (lowByte t.wordAtPc).toNat = (s.getV x).toNat / 10 ^ (2 - k.val) % 10))

/-! ## Display -/

/-- R210: 00E0 unlights every pixel and changes nothing else, VF included. -/
def Obligations.ClearScreen : Prop :=
  ∀ s : State, ∃ t, exec .cls s = .next t ∧ (∀ x y, t.pixel x y = false) ∧ t = { s with fb := t.fb } ∧
    s.SameMemory t

/-- With I + N <= 4096, DXYN inverts exactly the pixels its sprite covers, each coordinate wrapping on its own, the
coordinates read before VF is written; VF is 1 exactly when a covered pixel was lit, else 0; no other register and
nothing else changes (45_display; decisions D5, D8, D20; notes/assumptions/13.md, 16.md). -/
def Obligations.DrawInvertsSprite : Prop :=
  ∀ (x y n : Nibble) (s : State), s.index.toNat + n.toNat ≤ 4096 → ∃ t, exec (.drw x y n) s = .next t ∧
    (∀ px py, t.pixel px py = (s.pixel px py ^^
      s.spriteCovers s.index.toNat (s.getV x).toNat (s.getV y).toNat n.toNat px py)) ∧
    (t.getV 0xF = 1 ∨ t.getV 0xF = 0) ∧
    (t.getV 0xF = 1 ↔ ∃ px < 64, ∃ py < 32, s.pixel px py = true ∧ t.pixel px py = false) ∧
    (∀ k, k ≠ 0xF → t.getV k = s.getV k) ∧ t = { s with v := t.v, fb := t.fb } ∧ s.SameMemory t

/-- Drawing the same sprite again at the same place restores the framebuffer; and if the sprite's pixels were unlit
before, the first draw leaves VF = 0 and the second VF = 1, or 0 if the sprite has no set bit (45_display §R214, derived
there; decision D8). -/
def Obligations.DrawTwiceRestores : Prop :=
  ∀ (x y n : Nibble) (s t : State), s.index.toNat + n.toNat ≤ 4096 → exec (.drw x y n) s = .next t →
    ∃ u, exec (.drw x y n) { t with v := s.v } = .next u ∧ u.fb = s.fb ∧
      ((∀ px py, s.spriteCovers s.index.toNat (s.getV x).toNat (s.getV y).toNat n.toNat px py = true →
          s.pixel px py = false) →
        t.getV 0xF = 0 ∧
        ((∃ r < n.toNat, s.readByte (s.index.toNat + r) ≠ 0) → u.getV 0xF = 1) ∧
        ((∀ r < n.toNat, s.readByte (s.index.toNat + r) = 0) → u.getV 0xF = 0))

/-! ## Timers and keys -/

/-- R220, R222: FX07 writes DT to V[X], FX15 writes V[X] to DT, and nothing else changes; FX18 writes V[X] to ST likewise. -/
def Obligations.TimerRegisters : Prop :=
  ∀ (x : Nibble) (s : State),
    (∃ t, exec (.ldVxDt x) s = .next t ∧ (∀ k, t.getV k = if k = x then s.dt else s.getV k) ∧
      t = { s with v := t.v } ∧ s.SameMemory t) ∧
    (∃ t, exec (.ldDtVx x) s = .next t ∧ t.dt = s.getV x ∧ t = { s with dt := t.dt } ∧ s.SameMemory t) ∧
    (∃ t, exec (.ldStVx x) s = .next t ∧ t.st = s.getV x ∧ t = { s with st := t.st } ∧ s.SameMemory t)

/-- FX0A with a key pressed writes the least pressed key's index to V[X] and changes nothing else; with none pressed it
takes 2 from pc and changes nothing else (46_timers_keys, decision D27; notes/assumptions/18.md). -/
def Obligations.KeyWaitTakesLeastKey : Prop :=
  ∀ (x : Nibble) (s : State),
    (∀ k : Fin 16, s.key[k.val] = true → (∀ j : Fin 16, j < k → s.key[j.val] = false) →
      ∃ t, exec (.ldVxK x) s = .next t ∧ (t.getV x).toNat = k.val ∧ (∀ m, m ≠ x → t.getV m = s.getV m) ∧
        t = { s with v := t.v } ∧ s.SameMemory t) ∧
    ((∀ k : Fin 16, s.key[k.val] = false) → exec (.ldVxK x) s = .next { s with pc := s.pc - 2 })

/-- A step of a waiting engine changes nothing at all, so it goes on waiting; once the host presses a key k, the next
step puts k in the register and goes on after the FX0A (46_timers_keys §R224, derived there). -/
def Obligations.KeyWaitUntilPressed : Prop :=
  ∀ s : State, s.Waiting → step s = .next s ∧
    ∀ (k : Fin 16) (x : Nibble), s.AboutTo (.ldVxK x) →
      ∃ t, step (hostMove (.setKey k.val true) s).1 = .next t ∧ (t.getV x).toNat = k.val ∧
        t.pc.toNat = s.pc.toNat + 2

/-! ## The host interface -/

/-- A tick takes 1 from each timer that is above 0, in any state, a faulted one too, returns the tone, on exactly when
ST = 1 at entry, and changes nothing else (60_exceptions §5, decisions D6, D21; notes/assumptions/12.md, 17.md). -/
def Obligations.TimerTick : Prop :=
  ∀ s : State, ∃ t, hostMove .advanceTimers s = (t, .tone (decide (s.st = 1))) ∧
    t.dt.toNat = s.dt.toNat - 1 ∧ t.st.toNat = s.st.toNat - 1 ∧ t = { s with dt := t.dt, st := t.st }

/-- With ST = n, the tick after k earlier ticks raises the tone exactly when it is the n-th, n at least 1, and after n
ticks ST is 0 (60_exceptions §5, decision D21; notes/assumptions/17.md). -/
def Obligations.ToneOnTheLastTickOnly : Prop :=
  ∀ (s : State) (k : Nat),
    (hostMove .advanceTimers (hostRun (List.replicate k .advanceTimers) s)).2 =
      .tone (decide (s.st.toNat = k + 1)) ∧
    (hostRun (List.replicate s.st.toNat .advanceTimers) s).st = 0

/-- reset() leaves, whatever was done before, the state after construct() with the same parameters; only the model's own
count of random draws is not set back, since reset does not touch the random source (70_reset_and_hazards §1, decision
D25; notes/assumptions/21.md). So does the host's construct(), which makes an engine with the parameters of the one
before it (70_reset_and_hazards §1; that it keeps parameters and draws is the model's choice, notes/assumptions/6.md,
21.md). Both give back ok. The model's `State.reset` is that state at the default parameters, the model's choice
(notes/assumptions/2.md, 3.md). -/
def Obligations.ResetErasesEverything : Prop :=
  (∀ (ms : List Move) (s : State),
    hostMove .reset (hostRun ms s) = ({ State.construct s.params with draws := (hostRun ms s).draws }, .ok)) ∧
  (∀ s : State, hostMove .construct s = ({ State.construct s.params with draws := s.draws }, .ok)) ∧
  State.reset = State.construct Config.defaultParams

/-- load(rom) of at most 3584 bytes copies the ROM to 0x200 up and changes nothing else; a longer one is the host error
LoadTooLarge and changes nothing (70_reset_and_hazards §1, decisions D12, D13; notes/assumptions/19.md). -/
def Obligations.LoadCopiesRom : Prop :=
  ∀ (rom : List Byte) (s : State),
    (rom.length ≤ 3584 → ∃ t, hostMove (.load rom) s = (t, .ok) ∧
      (∀ (k : Nat) (h : k < rom.length), t.readByte (0x200 + k) = rom[k]) ∧
      s.SameMemoryOutside t 0x200 rom.length ∧ t = { s with mem := t.mem }) ∧
    (rom.length > 3584 → hostMove (.load rom) s = (s, .error .loadTooLarge))

/-- R253: set_key(k, p) with k < 16 sets key[k] to p and changes nothing else, in any state, a faulted one too. -/
def Obligations.SetKeySetsOneKey : Prop :=
  ∀ (k : Fin 16) (p : Bool) (s : State), ∃ t, hostMove (.setKey k.val p) s = (t, .ok) ∧
    (∀ j : Fin 16, t.key[j.val] = if j = k then p else s.key[j.val]) ∧ t = { s with key := t.key }

/-- set_key(k, p) with k >= 16 is the host error KeyIndexInvalid and changes nothing, and display() gives the pixels and
changes nothing (60_exceptions §4, §5; decision D14; notes/assumptions/19.md). -/
def Obligations.BadKeyAndDisplayChangeNothing : Prop :=
  ∀ (k : Nat) (p : Bool) (s : State),
    (k ≥ 16 → hostMove (.setKey k p) s = (s, .error .keyIndexInvalid)) ∧
    hostMove .display s = (s, .pixels s.fb) ∧
    ∀ x < 64, ∀ y < 32, ∀ h : x + 64 * y < 2048, s.fb[x + 64 * y] = s.pixel x y

/-- R280: construct() leaves FONT at 0x000 to 0x04F and zero elsewhere in memory, pc = 0x200, and every other component
zero, false or none, whatever FONT the parameters give. -/
def Obligations.ConstructLeavesResetValues : Prop :=
  ∀ p : Config.Params,
    (∀ a, (State.construct p).readByte a = if h : a < 80 then p.font[a] else 0) ∧
    (State.construct p).pc = 0x200 ∧ (State.construct p).index = 0 ∧ (∀ x, (State.construct p).getV x = 0) ∧
    (∀ k : Fin 16, (State.construct p).stack[k.val] = 0) ∧ (State.construct p).sp = 0 ∧
    (∀ x y, (State.construct p).pixel x y = false) ∧ (∀ k : Fin 16, (State.construct p).key[k.val] = false) ∧
    (State.construct p).dt = 0 ∧ (State.construct p).st = 0 ∧ (State.construct p).fault = none
end

