-- ==== Sys2Proof/Laws/Memory.lean ====
section
/-! SUPPORT. The laws of memory: a read after a write, and that every write keeps the canonical form. -/

namespace Sys2Proof.Machine

variable (font : Config.Font)

theorem Memory.lookup_put (m : Memory) (a b : Nat) (x : Byte) :
    Memory.lookup (Memory.put m a x) b = if b = a then some x else Memory.lookup m b := by
  induction m with
  | nil => simp [Memory.put, Memory.lookup]
  | cons c m ih =>
    obtain ⟨d, y⟩ := c
    by_cases h1 : a < d
    · simp [Memory.put, Memory.lookup, h1]
    by_cases h2 : a = d
    · subst h2
      by_cases h3 : b = a <;> simp [Memory.put, Memory.lookup, h3]
    · by_cases h3 : b = d
      · subst h3; simp [Memory.put, Memory.lookup, h1, h2, Ne.symm h2]
      · simp [Memory.put, Memory.lookup, h1, h2, h3, ih]

theorem Memory.lookup_remove (m : Memory) (a b : Nat) :
    Memory.lookup (Memory.remove m a) b = if b = a then none else Memory.lookup m b := by
  induction m with
  | nil => simp [Memory.remove, Memory.lookup]
  | cons c m ih =>
    obtain ⟨d, y⟩ := c
    simp only [Memory.remove] at ih
    by_cases h1 : d = a
    · subst h1
      by_cases h2 : b = d
      · subst h2; simpa [Memory.remove] using ih
      · simp [Memory.remove, Memory.lookup, ih, h2]
    · by_cases h2 : b = d
      · subst h2; simp [Memory.remove, Memory.lookup, h1]
      · simp [Memory.remove, Memory.lookup, h1, h2, ih]

/-- Reading after a write inside memory: the byte written there, and every other byte as before. -/
theorem Memory.read_write (m : Memory) (a b : Nat) (x : Byte) (ha : a < 4096) :
    Memory.read font (Memory.write font m a x) b = if b = a then x else Memory.read font m b := by
  have ha' : ¬ 4096 ≤ a := by omega
  by_cases hx : x = Memory.unlisted font a
  · rw [Memory.write, if_neg ha', if_pos hx, Memory.read, Memory.lookup_remove, Memory.read]
    by_cases hb : b = a
    · subst hb; simp [hx]
    · simp [hb]
  · rw [Memory.write, if_neg ha', if_neg hx, Memory.read, Memory.lookup_put, Memory.read]
    by_cases hb : b = a <;> simp [hb]

/-- A write, at any address, never changes what another address reads as. -/
theorem Memory.read_write_ne (m : Memory) {a b : Nat} (x : Byte) (h : b ≠ a) :
    Memory.read font (Memory.write font m a x) b = Memory.read font m b := by
  unfold Memory.write
  split
  · rfl
  split
  · simp [Memory.read, Memory.lookup_remove, h]
  · simp [Memory.read, Memory.lookup_put, h]

theorem Memory.mem_remove {m : Memory} {a : Nat} {c : Host.Cell} (h : c ∈ Memory.remove m a) : c ∈ m :=
  (List.mem_filter.1 h).1

theorem Memory.mem_put {m : Memory} {a : Nat} {x : Byte} {c : Host.Cell} (h : c ∈ Memory.put m a x) :
    c = (a, x) ∨ c ∈ m := by
  induction m with
  | nil => simp [Memory.put] at h; simp [h]
  | cons d m ih =>
    obtain ⟨e, y⟩ := d
    by_cases h1 : a < e
    · simpa [Memory.put, h1] using h
    by_cases h2 : a = e
    · subst h2; simp [Memory.put] at h; rcases h with h | h <;> simp [h]
    · simp [Memory.put, h1, h2] at h
      rcases h with h | h
      · simp [h]
      · rcases ih h with h | h <;> simp [h]

theorem Memory.rising_remove (m : Memory) (a : Nat) (h : m.Pairwise fun c d => c.1 < d.1) :
    (Memory.remove m a).Pairwise fun c d => c.1 < d.1 := h.filter _

theorem Memory.rising_put (m : Memory) (a : Nat) (x : Byte) (h : m.Pairwise fun c d => c.1 < d.1) :
    (Memory.put m a x).Pairwise fun c d => c.1 < d.1 := by
  induction m with
  | nil => simp [Memory.put]
  | cons c m ih =>
    obtain ⟨d, y⟩ := c
    obtain ⟨hd, hm⟩ := List.pairwise_cons.1 h
    by_cases h1 : a < d
    · simp only [Memory.put, h1, if_true]
      refine List.pairwise_cons.2 ⟨fun e he => ?_, h⟩
      rcases List.mem_cons.1 he with he | he
      · simp [he, h1]
      · exact Nat.lt_trans h1 (hd e he)
    by_cases h2 : a = d
    · subst h2
      simp only [Memory.put, Nat.lt_irrefl, if_false, if_true]
      exact List.pairwise_cons.2 ⟨fun e he => hd e he, hm⟩
    · simp only [Memory.put, h1, h2, if_false]
      refine List.pairwise_cons.2 ⟨fun e he => ?_, ih hm⟩
      rcases Memory.mem_put he with he | he
      · subst he; show d < a; omega
      · exact hd e he

/-- Every write keeps the canonical form, at any address. -/
theorem Memory.write_wf (m : Memory) (a : Nat) (x : Byte) (h : Memory.wf font m) :
    Memory.wf font (Memory.write font m a x) := by
  obtain ⟨hr, hc⟩ := h
  unfold Memory.write
  split
  · exact ⟨hr, hc⟩
  split
  · exact ⟨Memory.rising_remove m a hr, fun c h => hc c (Memory.mem_remove h)⟩
  · next h1 h2 =>
    refine ⟨Memory.rising_put m a x hr, fun c h => ?_⟩
    rcases Memory.mem_put h with h | h
    · subst h; exact ⟨by omega, h2⟩
    · exact hc c h

/-- The reset memory, which lists nothing, is in canonical form. -/
theorem Memory.nil_wf : Memory.wf font [] := by simp [Memory.wf]

theorem Memory.read_nil (a : Nat) : Memory.read font [] a = Memory.unlisted font a := rfl

theorem Memory.lookup_eq_none_of_lt : ∀ (m : Memory) (a : Nat), (∀ c ∈ m, a < c.1) → Memory.lookup m a = none
  | [], _, _ => rfl
  | (b, y) :: m, a, h => by
    have hb : a < b := h (b, y) (by simp)
    simp only [Memory.lookup, if_neg (Nat.ne_of_lt hb)]
    exact Memory.lookup_eq_none_of_lt m a fun c hc => h c (by simp [hc])

/-- A canonical memory that lists something reads, at its first address, as that address's entry, and no canonical memory
of higher addresses alone reads alike there. -/
theorem Memory.read_head {font : Config.Font} {a : Nat} {x : Byte} {m : Memory} :
    Memory.read font ((a, x) :: m) a = x := by simp [Memory.read, Memory.lookup]

theorem Memory.read_of_lt {font : Config.Font} {m : Memory} {a : Nat} (h : ∀ c ∈ m, a < c.1) :
    Memory.read font m a = Memory.unlisted font a := by
  simp [Memory.read, Memory.lookup_eq_none_of_lt m a h]

/-- Canonical memories that read alike are equal: equal memories are equal data. -/
theorem Memory.ext_of_read {font : Config.Font} : ∀ {m n : Memory}, Memory.wf font m → Memory.wf font n →
    (∀ a, Memory.read font m a = Memory.read font n a) → m = n
  | [], [], _, _, _ => rfl
  | [], (b, y) :: n, _, hn, h => absurd (by simpa [Memory.read_head, Memory.read_nil] using (h b).symm)
      (hn.2 (b, y) (by simp)).2
  | (a, x) :: m, [], hm, _, h => absurd (by simpa [Memory.read_head, Memory.read_nil] using h a)
      (hm.2 (a, x) (by simp)).2
  | (a, x) :: m, (b, y) :: n, hm, hn, h => by
    obtain ⟨hma, hmr⟩ := List.pairwise_cons.1 hm.1
    obtain ⟨hnb, hnr⟩ := List.pairwise_cons.1 hn.1
    have hlt : ¬ a < b := fun hab => (hm.2 (a, x) (by simp)).2 (by
      have := h a
      rw [Memory.read_head, Memory.read_of_lt (fun c hc => ?_)] at this
      · exact this
      · rcases List.mem_cons.1 hc with hc | hc
        · simpa [hc] using hab
        · exact Nat.lt_trans hab (hnb c hc))
    have hgt : ¬ b < a := fun hba => (hn.2 (b, y) (by simp)).2 (by
      have := (h b).symm
      rw [Memory.read_head, Memory.read_of_lt (fun c hc => ?_)] at this
      · exact this
      · rcases List.mem_cons.1 hc with hc | hc
        · simpa [hc] using hba
        · exact Nat.lt_trans hba (hma c hc))
    obtain rfl : a = b := by omega
    obtain rfl : x = y := by simpa [Memory.read_head] using h a
    have : m = n := Memory.ext_of_read ⟨hmr, fun c hc => hm.2 c (by simp [hc])⟩
      ⟨hnr, fun c hc => hn.2 c (by simp [hc])⟩ fun k => by
        by_cases hk : k = a
        · subst hk; rw [Memory.read_of_lt hma, Memory.read_of_lt hnb]
        · have := h k
          simpa [Memory.read, Memory.lookup, hk] using this
    rw [this]

/-! ### The same, through the state -/

theorem State.readByte_writeByte (s : State) (a b : Nat) (x : Byte) (ha : a < 4096) :
    (s.writeByte a x).readByte b = if b = a then x else s.readByte b :=
  Memory.read_write s.params.font s.mem a b x ha

theorem State.readByte_writeByte_ne (s : State) {a b : Nat} (x : Byte) (h : b ≠ a) :
    (s.writeByte a x).readByte b = s.readByte b :=
  Memory.read_write_ne s.params.font s.mem x h

end Sys2Proof.Machine
end

