-- ==== Sys2Proof/Laws/Ops.lean ====
section
/-! SUPPORT. One lemma for each shared operation of the machine, saying once everything it can do. -/

namespace Sys2Proof.Machine

/-! ### Program counter -/

theorem State.skipIf_eq (s : State) (c : Bool) : s.skipIf c = s.setPc (if c then s.pc + 2 else s.pc) := by
  cases c <;> rfl

/-- a is pc - 2, and the fetch's advance takes a to pc. -/
@[simp] theorem State.instrAddr_setPc_add (s : State) : (s.setPc (s.pc + 2)).instrAddr = s.pc := by
  simp [State.instrAddr, State.setPc]

/-- `raise` always answers a next state: the state before the fetch with the record in `fault`. -/
theorem State.raise_eq (s : State) (r : FaultRecord) :
    s.raise r = .next { s with pc := s.pc - 2, fault := some r } := rfl

/-! ### Bytes stored from an address up -/

/-- `storeBytes` changes memory alone. -/
theorem State.storeBytes_eq (s : State) (a : Nat) (bs : List Byte) :
    s.storeBytes a bs = { s with mem := (s.storeBytes a bs).mem } := by
  induction bs generalizing s a with
  | nil => rfl
  | cons b bs ih => rw [State.storeBytes, ih]; rfl

@[simp] theorem State.storeBytes_v (s : State) (a bs) : (s.storeBytes a bs).v = s.v := by rw [s.storeBytes_eq]
@[simp] theorem State.storeBytes_index (s : State) (a bs) : (s.storeBytes a bs).index = s.index := by
  rw [s.storeBytes_eq]
@[simp] theorem State.storeBytes_pc (s : State) (a bs) : (s.storeBytes a bs).pc = s.pc := by rw [s.storeBytes_eq]
@[simp] theorem State.storeBytes_stack (s : State) (a bs) : (s.storeBytes a bs).stack = s.stack := by
  rw [s.storeBytes_eq]
@[simp] theorem State.storeBytes_sp (s : State) (a bs) : (s.storeBytes a bs).sp = s.sp := by rw [s.storeBytes_eq]
@[simp] theorem State.storeBytes_fb (s : State) (a bs) : (s.storeBytes a bs).fb = s.fb := by rw [s.storeBytes_eq]
@[simp] theorem State.storeBytes_key (s : State) (a bs) : (s.storeBytes a bs).key = s.key := by rw [s.storeBytes_eq]
@[simp] theorem State.storeBytes_dt (s : State) (a bs) : (s.storeBytes a bs).dt = s.dt := by rw [s.storeBytes_eq]
@[simp] theorem State.storeBytes_st (s : State) (a bs) : (s.storeBytes a bs).st = s.st := by rw [s.storeBytes_eq]
@[simp] theorem State.storeBytes_fault (s : State) (a bs) : (s.storeBytes a bs).fault = s.fault := by
  rw [s.storeBytes_eq]
@[simp] theorem State.storeBytes_draws (s : State) (a bs) : (s.storeBytes a bs).draws = s.draws := by
  rw [s.storeBytes_eq]
@[simp] theorem State.storeBytes_params (s : State) (a bs) : (s.storeBytes a bs).params = s.params := by
  rw [s.storeBytes_eq]

/-- Outside the stored bytes memory reads as before, at whatever address they start. -/
theorem State.readByte_storeBytes_outside (s : State) (a : Nat) (bs : List Byte) (b : Nat)
    (h : ¬ (a ≤ b ∧ b < a + bs.length)) : (s.storeBytes a bs).readByte b = s.readByte b := by
  induction bs generalizing s a with
  | nil => rfl
  | cons x bs ih =>
    simp only [List.length_cons] at h
    rw [State.storeBytes, ih _ _ (by omega), State.readByte_writeByte_ne s x (by omega)]

/-- Inside memory, byte k of the list is what address a + k then reads as. -/
theorem State.readByte_storeBytes_inside (s : State) (a : Nat) (bs : List Byte) (k : Nat) (hk : k < bs.length)
    (h : a + bs.length ≤ 4096) : (s.storeBytes a bs).readByte (a + k) = bs[k] := by
  induction bs generalizing s a k with
  | nil => simp at hk
  | cons x bs ih =>
    simp only [List.length_cons] at h hk
    cases k with
    | zero =>
      rw [State.storeBytes, State.readByte_storeBytes_outside _ _ _ _ (by omega),
        State.readByte_writeByte s a _ x (by omega)]
      simp
    | succ k =>
      have := ih (s.writeByte a x) (a + 1) k (by omega) (by omega)
      rw [State.storeBytes, show a + (k + 1) = a + 1 + k by omega, this]
      simp

/-- `storeBytes` keeps the canonical form of memory. -/
theorem State.storeBytes_wf (s : State) (a : Nat) (bs : List Byte) (h : Memory.wf s.params.font s.mem) :
    Memory.wf s.params.font (s.storeBytes a bs).mem := by
  induction bs generalizing s a with
  | nil => exact h
  | cons x bs ih => exact ih (s.writeByte a x) (a + 1) (Memory.write_wf _ _ _ _ h)

/-! ### Registers loaded from an address up -/

/-- `loadRegs` changes the V registers alone. -/
theorem State.loadRegs_eq (s : State) (a n : Nat) : s.loadRegs a n = { s with v := (s.loadRegs a n).v } := by
  induction n with
  | zero => rfl
  | succ n ih => rw [State.loadRegs, ih]

@[simp] theorem State.readByte_loadRegs (s : State) (a n b : Nat) : (s.loadRegs a n).readByte b = s.readByte b := by
  rw [s.loadRegs_eq]; rfl

/-- The first n registers hold the bytes from a up, the others are as before. -/
theorem State.getV_loadRegs (s : State) (a n : Nat) (x : Nibble) :
    (s.loadRegs a n).getV x = if x.toNat < n then s.readByte (a + x.toNat) else s.getV x := by
  induction n with
  | zero => rfl
  | succ n ih =>
    have hx : x.toNat < 16 := x.isLt
    simp only [State.getV] at ih ⊢
    simp only [State.loadRegs, Vector.getElem_setIfInBounds, State.readByte_loadRegs, ih]
    by_cases h1 : n = x.toNat
    · simp [h1]
    · have : (x.toNat < n + 1) = (x.toNat < n) := propext (by omega)
      simp [h1, this]

/-! ### Stack -/

theorem State.push_of_lt (s : State) (w : Word) (h : s.sp.val < 16) :
    s.push w = some { s with stack := s.stack.set s.sp.val w h, sp := ⟨s.sp.val + 1, Nat.succ_lt_succ h⟩ } := by
  simp [State.push, h]

theorem State.push_full (s : State) (w : Word) (h : s.sp.val = 16) : s.push w = none := by
  simp [State.push, h]

theorem State.pop_empty (s : State) (h : s.sp.val = 0) : s.pop = none := by
  obtain ⟨k, hk⟩ : ∃ k, s.sp = k := ⟨_, rfl⟩
  obtain ⟨k, hlt⟩ := k
  obtain rfl : k = 0 := by simpa [hk] using h
  rw [State.pop]; split <;> simp_all

theorem State.pop_of_pos (s : State) (h : 0 < s.sp.val) :
    s.pop = some (s.stack[s.sp.val - 1]'(by omega), { s with sp := ⟨s.sp.val - 1, by omega⟩ }) := by
  obtain ⟨k, hk⟩ : ∃ k, s.sp = k := ⟨_, rfl⟩
  obtain ⟨k, hlt⟩ := k
  cases k with
  | zero => simp [hk] at h
  | succ k => rw [State.pop]; split <;> simp_all

/-! ### Keys -/

/-- No key is found exactly when none is pressed. -/
theorem State.leastPressed_eq_none (s : State) :
    s.leastPressed = none ↔ ∀ k : Fin 16, s.key[k.val] = false := by
  simp [State.leastPressed, List.find?_eq_none]

/-- The key found is pressed, and no lower one is. -/
theorem State.leastPressed_eq_some (s : State) (k : Fin 16) :
    s.leastPressed = some k ↔ s.key[k.val] = true ∧ ∀ j : Fin 16, j < k → s.key[j.val] = false := by
  simp only [State.leastPressed]
  constructor
  · intro h
    obtain ⟨hk, as, bs, hl, ha⟩ := List.find?_eq_some_iff_append.1 h
    refine ⟨hk, fun j hj => ?_⟩
    have hmem : j ∈ as := by
      have hj' : j ∈ List.finRange 16 := List.mem_finRange j
      rw [hl] at hj'
      have hp : (List.finRange 16).Pairwise (· < ·) := List.pairwise_lt_finRange 16
      rw [hl] at hp
      rcases List.mem_append.1 hj' with h | h
      · exact h
      · rcases List.mem_cons.1 h with h | h
        · exact absurd hj (by simp [h])
        · have := (List.pairwise_cons.1 (List.pairwise_append.1 hp).2.1).1 j h
          omega
    simpa using ha j hmem
  · rintro ⟨hk, hlt⟩
    cases h : (List.finRange 16).find? fun k => s.key[k.val] with
    | none => simp [List.find?_eq_none] at h; simp [h] at hk
    | some m =>
      obtain ⟨hm, as, bs, hl, ha⟩ := List.find?_eq_some_iff_append.1 h
      rcases lt_trichotomy m k with hmk | hmk | hmk
      · simp [hlt m hmk] at hm
      · rw [hmk]
      · have hk' : k ∈ List.finRange 16 := List.mem_finRange k
        have hp : (List.finRange 16).Pairwise (· < ·) := List.pairwise_lt_finRange 16
        rw [hl] at hk' hp
        rcases List.mem_append.1 hk' with h | h
        · have := ha k h; simp [hk] at this
        · rcases List.mem_cons.1 h with h | h
          · rw [h]
          · have := (List.pairwise_cons.1 (List.pairwise_append.1 hp).2.1).1 k h
            omega

/-! ### Fetch and decode -/

theorem State.fetchWord_eq (s : State) :
    s.fetchWord = if s.pc.toNat + 1 ≥ 4096 then none else some s.wordAtPc := rfl

/-- Everything fetch and decode can give, by the fetch bound and the decoder's verdict. -/
theorem State.fetchDecode_eq (s : State) :
    s.fetchDecode =
      if s.pc.toNat + 1 ≥ 4096 then .faulted (s.takeFault (.fetchOutOfBounds s.pc))
      else match decodeWord s.wordAtPc with
        | .unrecognized u => .faulted (s.takeFault (.unrecognizedOpcode s.pc u))
        | .instr i => .perform i (s.setPc (s.pc + 2)) := by
  rw [State.fetchDecode, State.fetchWord_eq]
  by_cases h : s.pc.toNat + 1 ≥ 4096
  · rw [if_pos h, if_pos h]
  · rw [if_neg h, if_neg h] <;> rfl

/-! ### Words and bytes -/

theorem wordOfBytes_toNat (hi lo : Byte) : (wordOfBytes hi lo).toNat = 256 * hi.toNat + lo.toNat := by
  have h1 := hi.isLt
  have h2 := lo.isLt
  have h3 : hi.toNat <<< 8 % 65536 = hi.toNat <<< 8 := Nat.mod_eq_of_lt (by rw [Nat.shiftLeft_eq]; omega)
  simp only [wordOfBytes, BitVec.toNat_or, BitVec.toNat_shiftLeft, BitVec.toNat_setWidth]
  rw [Nat.mod_eq_of_lt (show hi.toNat < 2 ^ 16 by omega), Nat.mod_eq_of_lt (show lo.toNat < 2 ^ 16 by omega), h3,
    ← Nat.shiftLeft_add_eq_or_of_lt (by omega), Nat.shiftLeft_eq]
  omega

@[simp] theorem wordOfBytes_high_low (w : Word) : wordOfBytes (highByte w) (lowByte w) = w := by
  unfold wordOfBytes highByte lowByte
  ext i hi
  interval_cases i <;> simp

@[simp] theorem highByte_wordOfBytes (hi lo : Byte) : highByte (wordOfBytes hi lo) = hi := by
  unfold wordOfBytes highByte
  ext i h
  interval_cases i <;> simp

@[simp] theorem lowByte_wordOfBytes (hi lo : Byte) : lowByte (wordOfBytes hi lo) = lo := by
  unfold wordOfBytes lowByte
  ext i h
  interval_cases i <;> simp

end Sys2Proof.Machine
end

