-- ==== Sys2Proof/Laws/PerInstr.lean ====
section
/-! SUPPORT. The statement made of every instruction as syntax: the word `encode` gives it matches its own row of the
opcode map (30_encoding R84, R85), one lemma per constructor. -/

namespace Sys2Proof.Laws

/-- Masking a word of format NNN to d1. -/
theorem formatNNN_mask (op : Nibble) (nnn : Addr12) : formatNNN op nnn &&& 0xF000 = formatNNN op 0 := by
  unfold formatNNN
  ext i hi
  interval_cases i <;> simp

/-- Masking a word of format XNN to d1. -/
theorem formatXNN_mask (op x : Nibble) (nn : Byte) : formatXNN op x nn &&& 0xF000 = formatNNN op 0 := by
  unfold formatXNN formatNNN
  ext i hi
  interval_cases i <;> simp

/-- Masking a word of format XYN to d1. -/
theorem formatXYN_mask (op x y n : Nibble) : formatXYN op x y n &&& 0xF000 = formatNNN op 0 := by
  unfold formatXYN wordOfNibbles formatNNN
  ext i hi
  interval_cases i <;> simp

/-- Masking a word of format XY to d1 and d4. -/
theorem formatXYN_mask_op2 (op x y n : Nibble) : formatXYN op x y n &&& 0xF00F = formatXYN op 0 0 n := by
  unfold formatXYN wordOfNibbles
  ext i hi
  interval_cases i <;> simp

/-- Masking a word of format X to d1 and the low byte. -/
theorem formatXNN_mask_low (op x : Nibble) (nn : Byte) : formatXNN op x nn &&& 0xF0FF = formatXNN op 0 nn := by
  unfold formatXNN
  ext i hi
  interval_cases i <;> simp

namespace EncodingMatchesRow

/-- The word of `i` matches the row of the opcode map that `i` stands for (30_encoding R84, R85). -/
def Statement (i : Instr) : Prop := ∃ r ∈ opcodeTable, r.number = i.rowNumber ∧ r.Matches (encode i)

theorem nop : Statement (.nop) :=
  ⟨⟨1, 0xFFFF, 0x0000⟩, by decide, rfl, by decide⟩

theorem cls : Statement (.cls) :=
  ⟨⟨2, 0xFFFF, 0x00E0⟩, by decide, rfl, by decide⟩

theorem ret : Statement (.ret) :=
  ⟨⟨3, 0xFFFF, 0x00EE⟩, by decide, rfl, by decide⟩

theorem jp (nnn : Addr12) : Statement (.jp nnn) :=
  ⟨⟨4, 0xF000, 0x1000⟩, by decide, rfl, formatNNN_mask 0x1 nnn⟩

theorem call (nnn : Addr12) : Statement (.call nnn) :=
  ⟨⟨5, 0xF000, 0x2000⟩, by decide, rfl, formatNNN_mask 0x2 nnn⟩

theorem seImm (x : Nibble) (nn : Byte) : Statement (.seImm x nn) :=
  ⟨⟨6, 0xF000, 0x3000⟩, by decide, rfl, formatXNN_mask 0x3 x nn⟩

theorem sneImm (x : Nibble) (nn : Byte) : Statement (.sneImm x nn) :=
  ⟨⟨7, 0xF000, 0x4000⟩, by decide, rfl, formatXNN_mask 0x4 x nn⟩

theorem seReg (x y : Nibble) : Statement (.seReg x y) :=
  ⟨⟨8, 0xF00F, 0x5000⟩, by decide, rfl, formatXYN_mask_op2 0x5 x y 0x0⟩

theorem ldImm (x : Nibble) (nn : Byte) : Statement (.ldImm x nn) :=
  ⟨⟨9, 0xF000, 0x6000⟩, by decide, rfl, formatXNN_mask 0x6 x nn⟩

theorem addImm (x : Nibble) (nn : Byte) : Statement (.addImm x nn) :=
  ⟨⟨10, 0xF000, 0x7000⟩, by decide, rfl, formatXNN_mask 0x7 x nn⟩

theorem ldReg (x y : Nibble) : Statement (.ldReg x y) :=
  ⟨⟨11, 0xF00F, 0x8000⟩, by decide, rfl, formatXYN_mask_op2 0x8 x y 0x0⟩

theorem or (x y : Nibble) : Statement (.or x y) :=
  ⟨⟨12, 0xF00F, 0x8001⟩, by decide, rfl, formatXYN_mask_op2 0x8 x y 0x1⟩

theorem and (x y : Nibble) : Statement (.and x y) :=
  ⟨⟨13, 0xF00F, 0x8002⟩, by decide, rfl, formatXYN_mask_op2 0x8 x y 0x2⟩

theorem xor (x y : Nibble) : Statement (.xor x y) :=
  ⟨⟨14, 0xF00F, 0x8003⟩, by decide, rfl, formatXYN_mask_op2 0x8 x y 0x3⟩

theorem addReg (x y : Nibble) : Statement (.addReg x y) :=
  ⟨⟨15, 0xF00F, 0x8004⟩, by decide, rfl, formatXYN_mask_op2 0x8 x y 0x4⟩

theorem sub (x y : Nibble) : Statement (.sub x y) :=
  ⟨⟨16, 0xF00F, 0x8005⟩, by decide, rfl, formatXYN_mask_op2 0x8 x y 0x5⟩

theorem shr (x y : Nibble) : Statement (.shr x y) :=
  ⟨⟨17, 0xF00F, 0x8006⟩, by decide, rfl, formatXYN_mask_op2 0x8 x y 0x6⟩

theorem subn (x y : Nibble) : Statement (.subn x y) :=
  ⟨⟨18, 0xF00F, 0x8007⟩, by decide, rfl, formatXYN_mask_op2 0x8 x y 0x7⟩

theorem shl (x y : Nibble) : Statement (.shl x y) :=
  ⟨⟨19, 0xF00F, 0x800E⟩, by decide, rfl, formatXYN_mask_op2 0x8 x y 0xE⟩

theorem sneReg (x y : Nibble) : Statement (.sneReg x y) :=
  ⟨⟨20, 0xF00F, 0x9000⟩, by decide, rfl, formatXYN_mask_op2 0x9 x y 0x0⟩

theorem ldI (nnn : Addr12) : Statement (.ldI nnn) :=
  ⟨⟨21, 0xF000, 0xA000⟩, by decide, rfl, formatNNN_mask 0xA nnn⟩

theorem jpV0 (nnn : Addr12) : Statement (.jpV0 nnn) :=
  ⟨⟨22, 0xF000, 0xB000⟩, by decide, rfl, formatNNN_mask 0xB nnn⟩

theorem rnd (x : Nibble) (nn : Byte) : Statement (.rnd x nn) :=
  ⟨⟨23, 0xF000, 0xC000⟩, by decide, rfl, formatXNN_mask 0xC x nn⟩

theorem drw (x y n : Nibble) : Statement (.drw x y n) :=
  ⟨⟨24, 0xF000, 0xD000⟩, by decide, rfl, formatXYN_mask 0xD x y n⟩

theorem skp (x : Nibble) : Statement (.skp x) :=
  ⟨⟨25, 0xF0FF, 0xE09E⟩, by decide, rfl, formatXNN_mask_low 0xE x 0x9E⟩

theorem sknp (x : Nibble) : Statement (.sknp x) :=
  ⟨⟨26, 0xF0FF, 0xE0A1⟩, by decide, rfl, formatXNN_mask_low 0xE x 0xA1⟩

theorem ldVxDt (x : Nibble) : Statement (.ldVxDt x) :=
  ⟨⟨27, 0xF0FF, 0xF007⟩, by decide, rfl, formatXNN_mask_low 0xF x 0x07⟩

theorem ldVxK (x : Nibble) : Statement (.ldVxK x) :=
  ⟨⟨28, 0xF0FF, 0xF00A⟩, by decide, rfl, formatXNN_mask_low 0xF x 0x0A⟩

theorem ldDtVx (x : Nibble) : Statement (.ldDtVx x) :=
  ⟨⟨29, 0xF0FF, 0xF015⟩, by decide, rfl, formatXNN_mask_low 0xF x 0x15⟩

theorem ldStVx (x : Nibble) : Statement (.ldStVx x) :=
  ⟨⟨30, 0xF0FF, 0xF018⟩, by decide, rfl, formatXNN_mask_low 0xF x 0x18⟩

theorem addIVx (x : Nibble) : Statement (.addIVx x) :=
  ⟨⟨31, 0xF0FF, 0xF01E⟩, by decide, rfl, formatXNN_mask_low 0xF x 0x1E⟩

theorem ldFVx (x : Nibble) : Statement (.ldFVx x) :=
  ⟨⟨32, 0xF0FF, 0xF029⟩, by decide, rfl, formatXNN_mask_low 0xF x 0x29⟩

theorem ldBVx (x : Nibble) : Statement (.ldBVx x) :=
  ⟨⟨33, 0xF0FF, 0xF033⟩, by decide, rfl, formatXNN_mask_low 0xF x 0x33⟩

theorem ldMemVx (x : Nibble) : Statement (.ldMemVx x) :=
  ⟨⟨34, 0xF0FF, 0xF055⟩, by decide, rfl, formatXNN_mask_low 0xF x 0x55⟩

theorem ldVxMem (x : Nibble) : Statement (.ldVxMem x) :=
  ⟨⟨35, 0xF0FF, 0xF065⟩, by decide, rfl, formatXNN_mask_low 0xF x 0x65⟩

end EncodingMatchesRow

end Sys2Proof.Laws
end

