-- ==== Sys2Proof/Laws/Decode.lean ====
section
/-! SUPPORT. The fields of a word of each format, and a word of each format from its fields (30_encoding R81, R82). -/

namespace Sys2Proof

/-! ### Fields of a word put together -/

@[simp] theorem fieldD1_formatNNN (op : Nibble) (nnn : Addr12) : fieldD1 (formatNNN op nnn) = op := by
  unfold fieldD1 formatNNN
  ext i h
  interval_cases i <;> simp

@[simp] theorem fieldNNN_formatNNN (op : Nibble) (nnn : Addr12) : fieldNNN (formatNNN op nnn) = nnn := by
  unfold fieldNNN formatNNN
  ext i h
  interval_cases i <;> simp

@[simp] theorem fieldD1_formatXNN (op x : Nibble) (nn : Byte) : fieldD1 (formatXNN op x nn) = op := by
  unfold fieldD1 formatXNN
  ext i h
  interval_cases i <;> simp

@[simp] theorem fieldX_formatXNN (op x : Nibble) (nn : Byte) : fieldX (formatXNN op x nn) = x := by
  unfold fieldX formatXNN
  ext i h
  interval_cases i <;> simp

@[simp] theorem fieldNN_formatXNN (op x : Nibble) (nn : Byte) : fieldNN (formatXNN op x nn) = nn := by
  unfold fieldNN formatXNN
  ext i h
  interval_cases i <;> simp

@[simp] theorem fieldD1_formatXYN (op x y n : Nibble) : fieldD1 (formatXYN op x y n) = op := by
  unfold fieldD1 formatXYN wordOfNibbles
  ext i h
  interval_cases i <;> simp

@[simp] theorem fieldX_formatXYN (op x y n : Nibble) : fieldX (formatXYN op x y n) = x := by
  unfold fieldX formatXYN wordOfNibbles
  ext i h
  interval_cases i <;> simp

@[simp] theorem fieldY_formatXYN (op x y n : Nibble) : fieldY (formatXYN op x y n) = y := by
  unfold fieldY formatXYN wordOfNibbles
  ext i h
  interval_cases i <;> simp

@[simp] theorem fieldN_formatXYN (op x y n : Nibble) : fieldN (formatXYN op x y n) = n := by
  unfold fieldN formatXYN wordOfNibbles
  ext i h
  interval_cases i <;> simp

/-! ### A word from its fields -/

theorem formatNNN_fields (w : Word) : formatNNN (fieldD1 w) (fieldNNN w) = w := by
  unfold formatNNN fieldD1 fieldNNN
  ext i h
  interval_cases i <;> simp

theorem formatXNN_fields (w : Word) : formatXNN (fieldD1 w) (fieldX w) (fieldNN w) = w := by
  unfold formatXNN fieldD1 fieldX fieldNN
  ext i h
  interval_cases i <;> simp

theorem formatXYN_fields (w : Word) : formatXYN (fieldD1 w) (fieldX w) (fieldY w) (fieldN w) = w := by
  unfold formatXYN wordOfNibbles fieldD1 fieldX fieldY fieldN
  ext i h
  interval_cases i <;> simp

end Sys2Proof
end

