-- ==== Sys2Proof/Laws/Display.lean ====
section
/-! SUPPORT. What drawing does: every pixel afterwards, and when a collision is noted. -/

namespace Sys2Proof.Machine

/-- The column offset of a pixel from a sprite's left edge, wrapping modulo 64. -/
def columnOffset (px x0 : Nat) : Nat := (px % 64 + 64 - x0 % 64) % 64

/-- The row offset of a pixel from a sprite's top edge, wrapping modulo 32. -/
def rowOffset (py y0 : Nat) : Nat := (py % 32 + 32 - y0 % 32) % 32

theorem State.spriteCovers_eq (s : State) (a x0 y0 n px py : Nat) :
    s.spriteCovers a x0 y0 n px py =
      (decide (columnOffset px x0 < 8) && decide (rowOffset py y0 < n)
        && (s.readByte (a + rowOffset py y0)).getLsbD (7 - columnOffset px x0)) := rfl

/-- Two coordinate pairs name one pixel exactly when they agree modulo 64 and modulo 32. -/
theorem pixelIndex_inj (x y x' y' : Nat) :
    (pixelIndex x y).val = (pixelIndex x' y').val ↔ x % 64 = x' % 64 ∧ y % 32 = y' % 32 := by
  simp only [pixelIndex]; omega

theorem columnOffset_eq_iff (px x0 c : Nat) (h : c < 64) : columnOffset px x0 = c ↔ (x0 + c) % 64 = px % 64 := by
  unfold columnOffset; omega

theorem rowOffset_eq_iff (py y0 r : Nat) (h : r < 32) : rowOffset py y0 = r ↔ (y0 + r) % 32 = py % 32 := by
  unfold rowOffset; omega

/-- Flipping a pixel: that pixel is inverted, every other is as before. -/
theorem Drawing.flip_fb (d : Drawing) (x y px py : Nat) :
    (d.flip (pixelIndex x y)).fb[(pixelIndex px py).val] =
      (d.fb[(pixelIndex px py).val] ^^ decide (x % 64 = px % 64 ∧ y % 32 = py % 32)) := by
  simp only [Drawing.flip, Vector.getElem_set, pixelIndex_inj]
  by_cases h : x % 64 = px % 64 ∧ y % 32 = py % 32
  · have : (pixelIndex x y).val = (pixelIndex px py).val := (pixelIndex_inj ..).2 h
    simp [h, this]
  · simp [h]

/-- The first k columns of a row: a pixel is inverted exactly when it lies in that row, within k columns of the left
edge, on a set bit. -/
theorem Drawing.columns_fb (d : Drawing) (x0 y : Nat) (b : Byte) (k : Nat) (hk : k ≤ 8) (px py : Nat) :
    (d.columns x0 y b k).fb[(pixelIndex px py).val] =
      (d.fb[(pixelIndex px py).val] ^^
        (decide (y % 32 = py % 32) && decide (columnOffset px x0 < k) && b.getLsbD (7 - columnOffset px x0))) := by
  induction k with
  | zero => simp [Drawing.columns]
  | succ c ih =>
    have ih := ih (by omega)
    have hc := columnOffset_eq_iff px x0 c (by omega)
    have key : (x0 + c) % 64 = px % 64 ∧ y % 32 = py % 32 ↔ columnOffset px x0 = c ∧ y % 32 = py % 32 := by
      rw [hc]
    simp only [Drawing.columns]
    by_cases hb : b.getLsbD (7 - c)
    · simp only [hb, if_true, Drawing.flip_fb, ih, key]
      by_cases h1 : y % 32 = py % 32
      · rcases lt_trichotomy (columnOffset px x0) c with h2 | h2 | h2
        · simp [h1, h2, Nat.ne_of_lt h2, Nat.lt_succ_of_lt h2]
        · simp [h1, h2, hb]
        · simp [h1, show ¬ columnOffset px x0 < c by omega, show ¬ columnOffset px x0 < c + 1 by omega,
            show ¬ columnOffset px x0 = c by omega]
      · simp [h1]
    · have hb' : b.getLsbD (7 - c) = false := by simpa using hb
      simp only [hb', Bool.false_eq_true, if_false, ih]
      rcases lt_trichotomy (columnOffset px x0) c with h2 | h2 | h2
      · simp [h2, Nat.lt_succ_of_lt h2]
      · simp [h2, hb']
      · simp [show ¬ columnOffset px x0 < c by omega, show ¬ columnOffset px x0 < c + 1 by omega]

/-- A collision is noted in the first k columns exactly when one was noted before, or a set bit among them falls on a
pixel lit before. -/
theorem Drawing.columns_collide (d : Drawing) (x0 y : Nat) (b : Byte) (k : Nat) (hk : k ≤ 8) :
    (d.columns x0 y b k).collide = true ↔
      d.collide = true ∨ ∃ c < k, b.getLsbD (7 - c) = true ∧ d.fb[(pixelIndex (x0 + c) y).val] = true := by
  induction k with
  | zero => simp [Drawing.columns]
  | succ c ih =>
    have ih := ih (by omega)
    have hfb := d.columns_fb x0 y b c (by omega) (x0 + c) y
    have ho : columnOffset (x0 + c) x0 = c := (columnOffset_eq_iff _ _ _ (by omega)).2 rfl
    simp only [ho, lt_irrefl, decide_false, Bool.and_false, Bool.false_and, Bool.xor_false] at hfb
    simp only [Drawing.columns]
    by_cases hb : b.getLsbD (7 - c)
    · simp only [hb, if_true, Drawing.flip, Bool.or_eq_true, hfb, ih]
      constructor
      · rintro ((h | ⟨e, he, h⟩) | h)
        · exact .inl h
        · exact .inr ⟨e, by omega, h⟩
        · exact .inr ⟨c, by omega, hb, h⟩
      · rintro (h | ⟨e, he, h⟩)
        · exact .inl (.inl h)
        · rcases Nat.lt_succ_iff_lt_or_eq.1 he with he | rfl
          · exact .inl (.inr ⟨e, he, h⟩)
          · exact .inr h.2
    · simp only [hb, Bool.false_eq_true, if_false, ih]
      constructor
      · rintro (h | ⟨e, he, h⟩)
        · exact .inl h
        · exact .inr ⟨e, by omega, h⟩
      · rintro (h | ⟨e, he, h⟩)
        · exact .inl h
        · rcases Nat.lt_succ_iff_lt_or_eq.1 he with he | rfl
          · exact .inr ⟨e, he, h⟩
          · exact absurd h.1 hb

/-- After n rows, each pixel is as before, inverted where the sprite covers it (a sprite is at most 32 rows high, so it
meets no pixel twice: 45_display R213). -/
theorem State.drawRows_fb (s : State) (a x0 y0 n : Nat) (hn : n ≤ 32) (px py : Nat) :
    (s.drawRows a x0 y0 n).fb[(pixelIndex px py).val] = (s.pixel px py ^^ s.spriteCovers a x0 y0 n px py) := by
  induction n with
  | zero => simp [State.drawRows, State.pixel, State.spriteCovers]
  | succ r ih =>
    have ih := ih (by omega)
    have hr := rowOffset_eq_iff py y0 r (by omega)
    have hd : decide ((y0 + r) % 32 = py % 32) = decide (rowOffset py y0 = r) := decide_eq_decide.2 hr.symm
    rw [State.drawRows, Drawing.columns_fb _ _ _ _ _ (by omega), ih, State.spriteCovers_eq, State.spriteCovers_eq, hd]
    rcases lt_trichotomy (rowOffset py y0) r with h | h | h
    · simp [h, Nat.ne_of_lt h, Nat.lt_succ_of_lt h]
    · simp [h]
    · simp [show ¬ rowOffset py y0 < r by omega, show ¬ rowOffset py y0 < r + 1 by omega,
        show ¬ rowOffset py y0 = r by omega]

/-- A collision is noted in n rows exactly when some pixel was lit and the sprite covers it. -/
theorem State.drawRows_collide (s : State) (a x0 y0 n : Nat) (hn : n ≤ 32) :
    (s.drawRows a x0 y0 n).collide = true ↔
      ∃ px < 64, ∃ py < 32, s.pixel px py = true ∧ s.spriteCovers a x0 y0 n px py = true := by
  induction n with
  | zero => simp [State.drawRows, State.spriteCovers]
  | succ r ih =>
    have ih := ih (by omega)
    rw [State.drawRows, Drawing.columns_collide _ _ _ _ _ (by omega), ih]
    constructor
    · rintro (⟨px, hx, py, hy, h1, h2⟩ | ⟨c, hc, hb, hp⟩)
      · refine ⟨px, hx, py, hy, h1, ?_⟩
        rw [State.spriteCovers_eq] at h2 ⊢
        simp only [Bool.and_eq_true, decide_eq_true_eq] at h2 ⊢
        exact ⟨⟨h2.1.1, by omega⟩, h2.2⟩
      · have hr : rowOffset ((y0 + r) % 32) y0 = r := (rowOffset_eq_iff _ _ _ (by omega)).2 (by omega)
        have hcol : columnOffset ((x0 + c) % 64) x0 = c := (columnOffset_eq_iff _ _ _ (by omega)).2 (by omega)
        have hi : pixelIndex ((x0 + c) % 64) ((y0 + r) % 32) = pixelIndex (x0 + c) (y0 + r) :=
          Fin.ext ((pixelIndex_inj ..).2 ⟨by omega, by omega⟩)
        refine ⟨(x0 + c) % 64, by omega, (y0 + r) % 32, by omega, ?_, ?_⟩
        · rw [State.drawRows_fb s a x0 y0 r (by omega)] at hp
          have hn : s.spriteCovers a x0 y0 r (x0 + c) (y0 + r) = false := by
            have : rowOffset (y0 + r) y0 = r := (rowOffset_eq_iff _ _ _ (by omega)).2 rfl
            simp [State.spriteCovers_eq, this]
          simp only [State.pixel, hi]
          simpa [hn, State.pixel] using hp
        · rw [State.spriteCovers_eq, hr, hcol]; simp [hc, hb]
    · rintro ⟨px, hx, py, hy, h1, h2⟩
      have h2' := h2
      rw [State.spriteCovers_eq] at h2
      simp only [Bool.and_eq_true, decide_eq_true_eq] at h2
      obtain ⟨⟨hc, hr⟩, hb⟩ := h2
      rcases Nat.lt_succ_iff_lt_or_eq.1 hr with hr | hr
      · refine .inl ⟨px, hx, py, hy, h1, ?_⟩
        rw [State.spriteCovers_eq]; simp [hc, hr, hb]
      · have e1 := (columnOffset_eq_iff px x0 _ (by omega)).1 rfl
        have e2 := (rowOffset_eq_iff py y0 r (by omega)).1 hr
        refine .inr ⟨columnOffset px x0, hc, by rw [← hr]; exact hb, ?_⟩
        have hi : pixelIndex (x0 + columnOffset px x0) (y0 + r) = pixelIndex px py :=
          Fin.ext ((pixelIndex_inj ..).2 ⟨e1, e2⟩)
        simp only [hi, State.drawRows_fb s a x0 y0 r (by omega), State.spriteCovers_eq, hr, h1]
        simp

end Sys2Proof.Machine
end

