-- ==== Sys2Proof/Laws/Exec.lean ====
section
/-! SUPPORT. What a step of a running engine and `exec` can do, said once over all instructions. -/

namespace Sys2Proof.Machine

/-- A step of a running engine is what fetch and decode give. -/
theorem step_running (s : State) (h : s.Running) : step s = match s.fetchDecode with
    | .faulted t => .next t
    | .perform i t => exec i t := by
  unfold step; simp only [State.Running] at h; rw [h] <;> rfl

/-- Everything `exec` can do to `fault`: it answers a next state with `fault` as it was, and then the instruction is due no
fault, or it raises exactly the fault it is due, the record holding its address and its word. -/
theorem exec_cases (i : Instr) (s : State) :
    (∃ t, exec i s = .next t ∧ t.fault = s.fault ∧ ∀ w, (s.setPc (s.pc - 2)).instrFault i w = none) ∨
    (∃ r, exec i s = s.raise r ∧ (s.setPc (s.pc - 2)).instrFault i (encode i) = some r) := by
  cases i with
  | ret =>
    simp only [exec, execRet, State.instrFault]
    by_cases h : s.sp.val = 0
    · right; rw [s.pop_empty h]; simp [h, State.instrAddr]
    · left; rw [s.pop_of_pos (by omega)]; simp [h]
  | call n =>
    simp only [exec, execCall, State.instrFault]
    by_cases h : s.sp.val = 16
    · right; rw [s.push_full _ h]; simp [h, State.instrAddr]
    · left; rw [s.push_of_lt _ (by omega)]; simp [h]
  | skp x =>
    simp only [exec, execSkp, State.instrFault]
    by_cases h : (s.getV x).toNat < 16
    · left; simp [h, State.skipIf_eq]
    · right; simp [h, State.instrAddr]; omega
  | sknp x =>
    simp only [exec, execSknp, State.instrFault]
    by_cases h : (s.getV x).toNat < 16
    · left; simp [h, State.skipIf_eq]
    · right; simp [h, State.instrAddr]; omega
  | drw x y n =>
    simp only [exec, execDrw, State.instrFault, accessLength, inRange, State.base]
    by_cases h : s.index.toNat + n.toNat ≤ 4096
    · left; simp [h]
    · right; simp [h, State.instrAddr]; omega
  | ldBVx x =>
    simp only [exec, execLdBVx, State.instrFault, accessLength, inRange, State.base]
    by_cases h : s.index.toNat + 3 ≤ 4096
    · left; simp [h]
    · right; simp [h, State.instrAddr]; omega
  | ldMemVx x =>
    simp only [exec, execLdMemVx, State.instrFault, accessLength, inRange, State.base, regCount]
    by_cases h : s.index.toNat + (x.toNat + 1) ≤ 4096
    · left; simp [h]
    · right; simp [h, State.instrAddr]; omega
  | ldVxMem x =>
    simp only [exec, execLdVxMem, State.instrFault, accessLength, inRange, State.base, regCount]
    by_cases h : s.index.toNat + (x.toNat + 1) ≤ 4096
    · left; simp [h]; rw [State.loadRegs_eq]
    · right; simp [h, State.instrAddr]; omega
  | ldVxK x =>
    left
    simp only [exec, execLdVxK, State.instrFault, accessLength]
    cases s.leastPressed <;> simp
  | _ =>
    left
    refine ⟨_, rfl, ?_, fun w => by simp [State.instrFault, accessLength]⟩
    first | rfl | simp [State.skipIf_eq]

end Sys2Proof.Machine
end

