-- ==== Sys2Proof/Laws/HostOps.lean ====
section
/-! SUPPORT. How runs of host operations compose, finite and infinite. -/

namespace Sys2Proof.Machine

theorem hostRun_append (ms ns : List Move) (s : State) : hostRun (ms ++ ns) s = hostRun ns (hostRun ms s) := by
  induction ms generalizing s with
  | nil => rfl
  | cons m ms ih => exact ih _

/-- The n-th state of an infinite run is the end of the finite run of its first n operations. -/
theorem hostTrace_eq_hostRun (ms : Nat → Move) (s : State) (n : Nat) :
    hostTrace ms s n = hostRun ((List.range n).map ms) s := by
  induction n with
  | zero => rfl
  | succ n ih => rw [hostTrace, ih, List.range_succ, List.map_append, hostRun_append]; rfl

end Sys2Proof.Machine
end

