-- ==== Sys2Proof/Tests/Slice0.lean ====
section
/-! SUPPORT. Small tests: words written out from the spec's encodings, one step or one host operation on a small state,
with results taken from 95_test_vectors; and for each obligation with hypotheses a witness that they can be met. -/

namespace Sys2Proof.Tests

open Sys2Proof Sys2Proof.Machine

/-- The state one step after the word `w` is placed at pc; none if the step gives no next state. -/
def after (s : State) (w : Word) : Option State :=
  match step (s.placeWord w) with
  | .next t => some t
  | _ => none

/-- The reset state with two registers written. -/
def regs (x : Nibble) (a : Byte) (y : Nibble) (b : Byte) : State := (State.reset.setV x a).setV y b

/-- The reset state with I set. -/
def withI (i : Word) : State := State.reset.setIndex i

/-- V[x] and VF after the word `w`. -/
def result (s : State) (w : Word) (x : Nibble) : Option (Byte × Byte) :=
  (after s w).map fun t => (t.getV x, t.getV 0xF)

/-- pc after the word `w`. -/
def pcAfter (s : State) (w : Word) : Option Word := (after s w).map (·.pc)

/-- The fault after the word `w`. -/
def faultAfter (s : State) (w : Word) : Option (Option FaultRecord) := (after s w).map (·.fault)

/-! ### Decoding, with words written out bit by bit (30_encoding §1 to §3) -/

theorem test_decode_fixed_words :
    decodeWord 0b0000000000000000 = .instr (.nop) ∧
    decodeWord 0b0000000011100000 = .instr (.cls) ∧
    decodeWord 0b0000000011101110 = .instr (.ret) := by decide

theorem test_decode_jumps :
    decodeWord 0b0001001000110100 = .instr (.jp 0x234) ∧
    decodeWord 0b0010001100000001 = .instr (.call 0x301) ∧
    decodeWord 0b1011111111111110 = .instr (.jpV0 0xFFE) := by decide

theorem test_decode_skips :
    decodeWord 0b0011000100101010 = .instr (.seImm 0x1 0x2A) ∧
    decodeWord 0b0100111000000111 = .instr (.sneImm 0xE 0x07) ∧
    decodeWord 0b0101000100100000 = .instr (.seReg 0x1 0x2) ∧
    decodeWord 0b1001101001010000 = .instr (.sneReg 0xA 0x5) ∧
    decodeWord 0b1110000110011110 = .instr (.skp 0x1) ∧
    decodeWord 0b1110011110100001 = .instr (.sknp 0x7) := by decide

theorem test_decode_loads :
    decodeWord 0b0110101001111011 = .instr (.ldImm 0xA 0x7B) ∧
    decodeWord 0b0111001100000101 = .instr (.addImm 0x3 0x05) ∧
    decodeWord 0b1010001100000000 = .instr (.ldI 0x300) ∧
    decodeWord 0b1100001100001111 = .instr (.rnd 0x3 0x0F) := by decide

theorem test_decode_alu :
    decodeWord 0b1000000100100000 = .instr (.ldReg 0x1 0x2) ∧
    decodeWord 0b1000000100100001 = .instr (.or 0x1 0x2) ∧
    decodeWord 0b1000000100100010 = .instr (.and 0x1 0x2) ∧
    decodeWord 0b1000000100100011 = .instr (.xor 0x1 0x2) ∧
    decodeWord 0b1000111100000100 = .instr (.addReg 0xF 0x0) ∧
    decodeWord 0b1000000000010101 = .instr (.sub 0x0 0x1) ∧
    decodeWord 0b1000010001010110 = .instr (.shr 0x4 0x5) ∧
    decodeWord 0b1000000000010111 = .instr (.subn 0x0 0x1) ∧
    decodeWord 0b1000010001011110 = .instr (.shl 0x4 0x5) := by decide

theorem test_decode_misc :
    decodeWord 0b1101000000010101 = .instr (.drw 0x0 0x1 0x5) ∧
    decodeWord 0b1111001100000111 = .instr (.ldVxDt 0x3) ∧
    decodeWord 0b1111001100001010 = .instr (.ldVxK 0x3) ∧
    decodeWord 0b1111001100010101 = .instr (.ldDtVx 0x3) ∧
    decodeWord 0b1111001100011000 = .instr (.ldStVx 0x3) ∧
    decodeWord 0b1111001000011110 = .instr (.addIVx 0x2) ∧
    decodeWord 0b1111001000101001 = .instr (.ldFVx 0x2) ∧
    decodeWord 0b1111101000110011 = .instr (.ldBVx 0xA) ∧
    decodeWord 0b1111000101010101 = .instr (.ldMemVx 0x1) ∧
    decodeWord 0b1111001001100101 = .instr (.ldVxMem 0x2) := by decide

/-- The high byte lies at the lower address (20_memory §2), and what follows the word is left over. -/
theorem test_decode_bytes_big_endian : decodeBytes [0x6A, 0x7B, 0xA3] = .ok (.ldImm 0xA 0x7B, [0xA3]) := by decide

theorem test_decodeTableWord : decodeTableWord 16 0xFA33 = some (.ldBVx 0xA) ∧ decodeTableWord 16 0xF100 = none := by
  decide

/-! ### Ill-formed words (95_test_vectors §2.1): one for each check of `wordLegal`, which refuses it -/

theorem test_illegal_words_refused :
    ([0x0123, 0x00E1, 0x5121, 0x9128, 0x8128, 0xE19F, 0xF100, 0xFFFF] : List Word).all
      (fun w => !wordLegal w) = true := by
  decide

theorem test_illegal_words_undecoded :
    ([0x0123, 0x00E1, 0x5121, 0x9128, 0x8128, 0xE19F, 0xF100, 0xFFFF] : List Word).all
      (fun w => decide (decodeWord w = .unrecognized w)) = true := by
  decide

theorem test_legal_words : wordLegal 0x00E0 = true ∧ wordLegal 0x5120 = true ∧ wordLegal 0x812E = true ∧
    wordLegal 0xE19E = true ∧ wordLegal 0xF10A = true := by decide

/-! ### Fetch (95_test_vectors §2.1) -/

theorem test_fetch_last_word : pcAfter (State.reset.setPc 0xFFE) 0x0000 = some 0x1000 := by decide

theorem test_fetch_past_memory :
    faultAfter (State.reset.setPc 0xFFF) 0x0000 = some (some (.fetchOutOfBounds 0xFFF)) := by decide

theorem test_fetch_odd_pc :
    (after (State.reset.setPc 0x201) 0x6007).map (fun t => (t.getV 0x0, t.pc)) = some (0x07, 0x203) := by decide

theorem test_illegal_word_faults :
    faultAfter State.reset 0x5121 = some (some (.unrecognizedOpcode 0x200 0x5121)) := by decide

theorem test_faulted_engine_stops :
    step (State.reset.takeFault (.fetchOutOfBounds 0xFFF)) = .fault (.stopped (.fetchOutOfBounds 0xFFF)) := rfl

theorem test_withFetchWord_runs :
    (match step (State.reset.withFetchWord 16 0x6A7B) with | .next t => t.getV 0xA | _ => 0) = 0x7B := by decide

/-! ### Control flow (95_test_vectors §2.2) -/

theorem test_nop : pcAfter State.reset 0x0000 = some 0x202 := by decide

theorem test_jp : pcAfter State.reset 0x1234 = some 0x234 := by decide

theorem test_jp_idle : pcAfter State.reset 0x1200 = some 0x200 := by decide

theorem test_call :
    (after (State.reset.setPc 0x204) 0x220A).map (fun t => (t.stack[0], t.sp, t.pc)) = some (0x206, 1, 0x20A) :=
  by decide

theorem test_call_full :
    faultAfter { State.reset with sp := 16 } 0x2300 = some (some (.stackOverflow 0x200 0x2300)) := by decide

theorem test_ret :
    (after { State.reset with sp := 1, stack := State.reset.stack.set 0 0x206 } 0x00EE).map
      (fun t => (t.pc, t.sp, t.stack[0])) = some (0x206, 0, 0x206) := by decide

theorem test_ret_empty : faultAfter State.reset 0x00EE = some (some (.stackUnderflow 0x200 0x00EE)) := by decide

theorem test_jpV0 : pcAfter (State.reset.setV 0x0 0xFF) 0xBFFF = some 0x10FE := by decide

theorem test_jpV0_reads_v0 : pcAfter (State.reset.setV 0x5 0x10) 0xB000 = some 0x000 := by decide

/-! ### Skips (95_test_vectors §2.3) -/

theorem test_seImm :
    pcAfter (State.reset.setV 0x1 0x2A) 0x312A = some 0x204 ∧ pcAfter (State.reset.setV 0x1 0x2A) 0x312B = some 0x202 :=
  by decide

theorem test_sneImm :
    pcAfter (State.reset.setV 0x1 0x2A) 0x412A = some 0x202 ∧ pcAfter (State.reset.setV 0x1 0x2A) 0x412B = some 0x204 :=
  by decide

theorem test_seReg :
    pcAfter (regs 0x1 0x07 0x2 0x07) 0x5120 = some 0x204 ∧ pcAfter (regs 0x1 0x07 0x2 0x08) 0x5120 = some 0x202 :=
  by decide

theorem test_sneReg :
    pcAfter (regs 0x1 0x07 0x2 0x08) 0x9120 = some 0x204 ∧ pcAfter (regs 0x1 0x07 0x2 0x07) 0x9120 = some 0x202 :=
  by decide

/-- V1 = 5, and key 5 pressed or not. -/
def keyState (p : Bool) : State := { State.reset.setV 0x1 0x05 with key := State.reset.key.set 5 p }

theorem test_skp :
    pcAfter (keyState true) 0xE19E = some 0x204 ∧ pcAfter (keyState false) 0xE19E = some 0x202 := by decide

theorem test_sknp :
    pcAfter (keyState false) 0xE1A1 = some 0x204 ∧ pcAfter (keyState true) 0xE1A1 = some 0x202 := by decide

theorem test_skp_index :
    faultAfter (State.reset.setV 0x1 0x10) 0xE19E = some (some (.keyIndexOutOfRange 0x200 0xE19E 0x10)) := by decide

theorem test_sknp_index :
    faultAfter (State.reset.setV 0x1 0xFF) 0xE1A1 = some (some (.keyIndexOutOfRange 0x200 0xE1A1 0xFF)) := by decide

/-! ### Registers and arithmetic (95_test_vectors §1 E1, §2.4) -/

theorem test_ldImm :
    result State.reset 0x6A7B 0xA = some (0x7B, 0x00) ∧ result (State.reset.setV 0xF 0x55) 0x6F00 0xF = some (0, 0) :=
  by decide

theorem test_addImm_wraps_no_flag : result (regs 0x3 0xFE 0xF 0x09) 0x7305 0x3 = some (0x03, 0x09) := by decide

theorem test_ldReg : result (regs 0x1 0x0F 0x2 0xF0) 0x8120 0x1 = some (0xF0, 0x00) := by decide

theorem test_or_reads_y : result (regs 0x1 0x0F 0x2 0xF0) 0x8121 0x1 = some (0xFF, 0x00) := by decide

theorem test_or_reads_x :
    result { regs 0x1 0x0F 0x2 0xF0 with params := ⟨Config.defaultFont, true⟩ } 0x8121 0x1 = some (0x0F, 0x00) :=
  by decide

theorem test_and : result ((regs 0x1 0x0F 0x2 0x3C).setV 0xF 0x07) 0x8122 0x1 = some (0x0C, 0x07) := by decide

theorem test_xor : result (regs 0x1 0x0F 0x2 0x3C) 0x8123 0x1 = some (0x33, 0x00) := by decide

theorem test_xor_same_register : result (State.reset.setV 0x1 0x5A) 0x8113 0x1 = some (0x00, 0x00) := by decide

theorem test_addReg_carry :
    result (regs 0x0 0x80 0x1 0x80) 0x8014 0x0 = some (0x00, 0x01) ∧
      result (regs 0x0 0x80 0x1 0x7F) 0x8014 0x0 = some (0xFF, 0x00) := by decide

theorem test_addReg_vf :
    result (regs 0xF 0xF0 0x0 0x20) 0x8F04 0xF = some (0x01, 0x01) ∧
      result (regs 0x0 0x01 0xF 0xFF) 0x80F4 0x0 = some (0x00, 0x01) := by decide

theorem test_sub :
    result (regs 0x0 0x05 0x1 0x05) 0x8015 0x0 = some (0x00, 0x01) ∧
      result (regs 0x0 0x03 0x1 0x0A) 0x8015 0x0 = some (0xF9, 0x00) := by decide

theorem test_sub_vf : result (regs 0xF 0x10 0x0 0x20) 0x8F05 0xF = some (0x00, 0x00) := by decide

theorem test_subn :
    result (regs 0x0 0x05 0x1 0x05) 0x8017 0x0 = some (0x00, 0x00) ∧
      result (regs 0x0 0x0A 0x1 0x03) 0x8017 0x0 = some (0xF9, 0x01) := by decide

theorem test_subn_vf : result (regs 0xF 0x20 0x0 0x10) 0x8F07 0xF = some (0x01, 0x01) := by decide

theorem test_shr :
    result (regs 0x4 0x01 0x5 0x80) 0x8456 0x4 = some (0x00, 0x01) ∧
      result (State.reset.setV 0x4 0x04) 0x8406 0x4 = some (0x02, 0x00) := by decide

theorem test_shr_vf : result (State.reset.setV 0xF 0x03) 0x8F06 0xF = some (0x00, 0x00) := by decide

theorem test_shl :
    result (State.reset.setV 0x4 0x81) 0x840E 0x4 = some (0x02, 0x01) ∧
      result (State.reset.setV 0x4 0x40) 0x840E 0x4 = some (0x80, 0x00) := by decide

theorem test_shl_vf : result (State.reset.setV 0xF 0x80) 0x8F0E 0xF = some (0x02, 0x02) := by decide

theorem test_rnd_mask_zero :
    (after State.reset 0xC300).map (fun t => (t.getV 0x3, t.draws)) = some (0x00, 1) :=
  congrArg (fun b : Byte => some (b, 1)) BitVec.and_zero

theorem test_rnd_mask_all :
    (after State.reset 0xC3FF).map (·.getV 0x3) = some (Config.randomByte 0) := congrArg some (BitVec.and_allOnes (x :=
  Config.randomByte 0))

/-! ### Index register and memory (95_test_vectors §2.5) -/

theorem test_ldI : (after State.reset 0xA300).map (·.index) = some 0x300 := by decide

theorem test_addIVx :
    (after ((withI 0xFFFF).setV 0x2 0x02) 0xF21E).map (·.index) = some 0x0001 ∧
      (after (((withI 0x0FFF).setV 0x2 0x01).setV 0xF 0x05) 0xF21E).map (fun t => (t.index, t.getV 0xF)) = some (0x1000, 0x05) :=
  by decide

theorem test_ldFVx :
    (after (State.reset.setV 0x2 0x0F) 0xF229).map (·.index) = some 0x04B ∧
      (after (State.reset.setV 0x2 0xFF) 0xF229).map (·.index) = some 0x4FB := by decide

theorem test_ldBVx :
    (after ((withI 0xFFD).setV 0x2 0x7B) 0xF233).map
      (fun t => (t.readByte 0xFFD, t.readByte 0xFFE, t.readByte 0xFFF, t.index)) = some (1, 2, 3, 0xFFD) := by decide

theorem test_ldBVx_range :
    faultAfter (withI 0xFFE) 0xF233 = some (some (.memoryOutOfBounds 0x200 0xF233 0xFFE 3)) := by decide

theorem test_ldMemVx :
    (after (((withI 0x300).setV 0x0 0x11).setV 0x1 0x22) 0xF155).map
      (fun t => (t.readByte 0x300, t.readByte 0x301, t.readByte 0x302, t.index)) = some (0x11, 0x22, 0, 0x300) :=
  by decide

theorem test_ldMemVx_range :
    faultAfter (withI 0xFF1) 0xFF55 = some (some (.memoryOutOfBounds 0x200 0xFF55 0xFF1 16)) := by decide

theorem test_ldVxMem :
    (after ((withI 0x300).storeBytes 0x300 [0xAA, 0xBB, 0xCC]) 0xF165).map
      (fun t => (t.getV 0x0, t.getV 0x1, t.getV 0x2, t.index)) = some (0xAA, 0xBB, 0, 0x300) := by decide

theorem test_ldVxMem_range :
    faultAfter (withI 0x1000) 0xF065 = some (some (.memoryOutOfBounds 0x200 0xF065 0x1000 1)) := by decide

theorem test_write_back_unlists :
    (State.reset.writeByte 0x300 0x11).mem = [(0x300, 0x11)] ∧
      ((State.reset.writeByte 0x300 0x11).writeByte 0x300 0x00).mem = [] := by decide

/-! ### Display (95_test_vectors §2.6) -/

theorem test_cls :
    (after ((State.reset.setV 0xF 0x07).setFb (State.reset.fb.set 70 true)) 0x00E0).map
      (fun t => (t.pixel 6 1, t.getV 0xF)) = some (false, 0x07) := by decide

set_option maxRecDepth 8192 in
/-- A sprite row at the corner of the screen wraps in its own row (E4, with two of its bits set). -/
theorem test_drw_wraps :
    (after (((((withI 0x300).writeByte 0x300 0x82).setV 0x0 0x3F).setV 0x1 0x1F).setV 0xF 0x07) 0xD011).map
      (fun t => (t.pixel 63 31, t.pixel 5 31, t.pixel 5 0, t.getV 0xF)) = some (true, true, false, 0x00) := by decide

theorem test_drw_flag_and_bounds :
    (after (((withI 0x300).writeByte 0x300 0xC0).setFb (State.reset.fb.set 0 true)) 0xD011).map
      (fun t => (t.pixel 0 0, t.pixel 1 0, t.getV 0xF)) = some (false, true, 0x01) ∧
    (after ((withI 0x1000).setV 0xF 0x07) 0xD010).map (fun t => (t.fault, t.getV 0xF)) = some (none, 0) ∧
    faultAfter (withI 0x1001) 0xD010 = some (some (.memoryOutOfBounds 0x200 0xD010 0x1001 0)) := by decide

/-! ### Timers and keys (95_test_vectors §2.7) -/

theorem test_ldVxDt : (after (State.reset.setDt 0x09) 0xF307).map (·.getV 0x3) = some 0x09 := by decide

theorem test_ldDtVx :
    (after (State.reset.setV 0x3 0x05) 0xF315).map (fun t => (t.dt, t.st)) = some (0x05, 0x00) := by decide

theorem test_ldStVx :
    (after (State.reset.setV 0x3 0x02) 0xF318).map (fun t => (t.dt, t.st)) = some (0x00, 0x02) := by decide

theorem test_ldVxK_waits :
    (after (State.reset.setV 0x3 0x09) 0xF30A).map (fun t => (t.pc, t.getV 0x3)) = some (0x200, 0x09) := by decide

theorem test_ldVxK_least :
    (after { State.reset with key := (State.reset.key.set 15 true).set 7 true } 0xF30A).map
      (fun t => (t.pc, t.getV 0x3)) = some (0x202, 0x07) := by decide

/-! ### Host operations (95_test_vectors §2.7, §2.8) -/

theorem test_tick_tone :
    (hostMove .advanceTimers ((State.reset.setDt 2).setSt 2)).2 = .tone false ∧
      (hostMove .advanceTimers ((State.reset.setDt 1).setSt 1)).2 = .tone true ∧
      (hostMove .advanceTimers State.reset).2 = .tone false := by decide

theorem test_tick_faulted :
    (hostMove .advanceTimers ((State.reset.setDt 5).takeFault (.fetchOutOfBounds 0xFFF))).1.dt = 4 := by decide

theorem test_load :
    (hostMove (.load [0xAA, 0xBB]) (State.reset.writeByte 0x204 0x77)).1.mem =
      [(0x200, 0xAA), (0x201, 0xBB), (0x204, 0x77)] := by decide

theorem test_load_too_large :
    (hostMove (.load (List.replicate 3585 0x11)) State.reset).2 = .error .loadTooLarge := by
  rw [hostMove, State.hostLoad, if_neg (by rw [List.length_replicate]; decide)]

theorem test_infinite_run_ticks :
    (hostTrace (fun _ => .advanceTimers) ((State.reset.setDt 5).setSt 1) 2).dt = 3 ∧
      (hostTrace (fun _ => .advanceTimers) ((State.reset.setDt 5).setSt 1) 2).st = 0 := by decide

theorem test_set_key :
    (hostMove (.setKey 15 true) State.reset).1.key[15] = true ∧
      (hostMove (.setKey 16 true) State.reset).2 = .error .keyIndexInvalid := by decide

theorem test_reset_clears :
    (hostMove .reset (hostRun [.load [0x60, 0x05], .executeOne, .setKey 3 true] State.reset)).1 = State.reset := rfl

/-! ### Witnesses: the hypotheses of each obligation can be met -/

theorem witness_EncodeInvertsDecode : decodeWord 0x8456 = .instr (.shr 0x4 0x5) := by decide

/-- A row of the map, a word that matches it and a word that does not. -/
theorem witness_DecoderFollowsMaskAndMatch :
    ⟨8, 0xF00F, 0x5000⟩ ∈ opcodeTable ∧
      OpcodeRow.Matches ⟨8, 0xF00F, 0x5000⟩ 0x5120 ∧
      ¬ OpcodeRow.Matches ⟨8, 0xF00F, 0x5000⟩ 0x5121 := by decide

theorem witness_OpcodeRowsDisjoint :
    ⟨19, 0xF00F, 0x800E⟩ ∈ opcodeTable ∧ OpcodeRow.Matches ⟨19, 0xF00F, 0x800E⟩ 0x8FFE := by decide

/-- The engine about to run the instruction in word `w` at address `a`. -/
def about (a : Word) (w : Word) : State := (State.reset.setPc a).placeWord w

/-- For `StepRunsDecodedInstruction`; the last word of memory included. -/
theorem witness_AboutTo :
    (about 0xFFE 0x0000).AboutTo .nop ∧
      (about 0x200 0x8F04).AboutTo (.addReg 0xF 0x0) ∧
      (about 0x000 0xFF55).AboutTo (.ldMemVx 0xF) := by decide

theorem witness_FetchPastMemoryFaults :
    (State.reset.setPc 0xFFF).Running ∧ (State.reset.setPc 0xFFF).pc.toNat + 1 ≥ 4096 := by decide

theorem witness_IllegalWordFaults :
    (about 0xFFE 0xFFFF).Running ∧ (about 0xFFE 0xFFFF).CanFetch ∧ wordLegal (about 0xFFE 0xFFFF).wordAtPc = false :=
  by decide

theorem witness_FaultedEngineRunsNothing :
    (State.reset.takeFault (.fetchOutOfBounds 0xFFF)).fault = some (.fetchOutOfBounds 0xFFF) := by decide

/-- A fetch that fails, and an instruction that faults. -/
theorem witness_FaultingStepChangesOnlyFault :
    ∃ t u, step (State.reset.setPc 0xFFF) = .next t ∧ t.fault = some (.fetchOutOfBounds 0xFFF) ∧
      step (about 0x200 0x00EE) = .next u ∧ u.fault = some (.stackUnderflow 0x200 0x00EE) :=
  ⟨_, _, rfl, by decide, rfl, by decide⟩

theorem witness_StepFaultsExactlyWhenDue :
    (about 0x200 0x2300).Running ∧ (about 0x200 0x2300).faultDue = none ∧
      (State.reset.setPc 0x1000).faultDue = some (.fetchOutOfBounds 0x1000) := by decide

theorem witness_StepFrameByInstruction :
    (about 0x200 0xF233).AboutTo (.ldBVx 0x2) ∧ ∃ t, step (about 0x200 0xF233) = .next t := ⟨by decide, _, rfl⟩

theorem witness_Idle : (about 0x200 0x1200).Idle ∧ (about 0xFFE 0x1FFE).Idle ∧ (about 0x000 0x1000).Idle := by decide

theorem witness_StepKeepsInvariant :
    (about 0x200 0xBFFF).Inv ∧ ∃ t, step (about 0x200 0xBFFF) = .next t := ⟨by decide, _, rfl⟩

theorem witness_ExecuteOneReportsFault :
    ∃ t u, step (about 0x200 0x6A7B) = .next t ∧ t.fault = none ∧
      step (about 0x200 0x00EE) = .next u ∧ u.fault = some (.stackUnderflow 0x200 0x00EE) :=
  ⟨_, _, rfl, by decide, rfl, by decide⟩

theorem witness_StepFrameByInstruction_registers :
    (about 0x200 0x8016).AboutTo (.shr 0x0 0x1) ∧ writesV (.shr 0x0 0x1) 0x1 = false ∧
      writesV (.shr 0x0 0x1) 0xF = true ∧ writesV (.ldVxMem 0xE) 0xF = false ∧ writesV (.drw 0x0 0x1 0x5) 0xE = false :=
  by decide

theorem witness_HostRunKeepsInvariant : State.reset.Inv := by decide

theorem witness_CallPushesReturnAddress :
    ({ State.reset with sp := 15 } : State).sp.val < 16 ∧ State.reset.sp.val < 16 := by decide

theorem witness_ReturnPopsReturnAddress :
    ({ State.reset with sp := 16 } : State).sp.val = (15 : Fin 16).val + 1 ∧
      ({ State.reset with sp := 1 } : State).sp.val = (0 : Fin 16).val + 1 := by decide

theorem witness_StackFaults : ({ State.reset with sp := 16 } : State).sp.val = 16 ∧ State.reset.sp.val = 0 := by decide

/-- After the call the called code has moved pc. -/
theorem witness_ReturnUndoesCall :
    State.reset.sp.val < 16 ∧ ∃ t, ∃ u : State, exec (.call 0x300) State.reset = .next t ∧
      u.sp = t.sp ∧ u.stack = t.stack ∧ u.pc ≠ t.pc := by
  refine ⟨by decide, _, ?_, rfl, ?_⟩
  · exact State.setPc { State.reset with sp := 1, stack := State.reset.stack.set 0 0x200 } 0x400
  · decide

theorem witness_SkipOnKey :
    ((State.reset.setV 0x1 0x0F).getV 0x1).toNat = (15 : Fin 16).val ∧
      (State.reset.getV 0x1).toNat = (0 : Fin 16).val := by decide

theorem witness_KeyIndexFaults : ((State.reset.setV 0x1 0x10).getV 0x1).toNat ≥ 16 := by decide

theorem witness_OrUnderEitherSwitch :
    State.reset.params.orYIsX = false ∧ (State.construct ⟨Config.defaultFont, true⟩).params.orYIsX = true := by decide

/-- X is not F; equal operands, at the boundary of the carry; a third register. -/
theorem witness_ArithmeticFlagPolarity :
    (0xE : Nibble) ≠ 0xF ∧ ((regs 0xE 0x80 0x1 0x80).getV 0xE).toNat = ((regs 0xE 0x80 0x1 0x80).getV 0x1).toNat ∧
      (0x1 : Nibble) ≠ 0xE ∧ (0x1 : Nibble) ≠ 0xF := by decide

/-- Both clauses of `ShiftRight` and `ShiftLeft`. -/
theorem witness_ShiftByRegister : (0xE : Nibble) ≠ 0xF ∧ (0xF : Nibble) = 0xF := by decide

theorem witness_BcdStoresDigits : (withI 0xFFD).index.toNat + 3 ≤ 4096 := by decide

/-- `StoreRegisters` and `LoadRegisters`: all 16 registers, up to the last byte of memory. -/
theorem witness_StoreRegisters :
    (withI 0xFF0).index.toNat + (0xF : Nibble).toNat + 1 ≤ 4096 ∧ (0xF : Nibble).toNat ≤ (0xF : Nibble).toNat :=
  by decide

theorem witness_MemoryRangeFaults :
    accessLength (.drw 0x0 0x1 0x0) = some 0 ∧ (withI 0x1001).index.toNat + 0 > 4096 ∧
      accessLength (.ldBVx 0x2) = some 3 ∧ (withI 0xFFE).index.toNat + 3 > 4096 ∧
      accessLength (.ldMemVx 0xF) = some 16 ∧ (withI 0xFF1).index.toNat + 16 > 4096 ∧
      accessLength (.ldVxMem 0x0) = some 1 ∧ (withI 0x1000).index.toNat + 1 > 4096 := by decide

theorem witness_LoadUndoesStore :
    (withI 0xFF0).index.toNat + (0xF : Nibble).toNat + 1 ≤ 4096 ∧ ∃ t, exec (.ldMemVx 0xF) (withI 0xFF0) = .next t :=
  ⟨by decide, _, rfl⟩

/-- The two bytes of a word stored right before its fetch. -/
theorem witness_FetchSeesStores :
    ∃ t u, exec (.ldMemVx 0x1) ((withI 0x202).setPc 0x202) = .next t ∧
      t.pc.toNat = 0x202 + (0x0 : Nibble).toNat ∧ t.pc.toNat + 1 = 0x202 + (0x1 : Nibble).toNat ∧
      exec (.ldBVx 0x1) ((withI 0x202).setPc 0x203) = .next u ∧
      u.pc.toNat = 0x202 + (1 : Fin 3).val ∧ u.pc.toNat + 1 = 0x202 + (2 : Fin 3).val :=
  ⟨_, _, rfl, by decide, by decide, rfl, by decide,
      by decide⟩

theorem witness_DrawInvertsSprite :
    (withI 0x1000).index.toNat + (0x0 : Nibble).toNat ≤ 4096 ∧
      (withI 0xFFF).index.toNat + (0x1 : Nibble).toNat ≤ 4096 := by decide

/-- A drawing onto a blank screen, whose hypotheses both hold, the sprite having set bits. -/
theorem witness_DrawTwiceRestores :
    (withI 0x000).index.toNat + (0x5 : Nibble).toNat ≤ 4096 ∧ (∃ t, exec (.drw 0x0 0x1 0x5) (withI 0x000) = .next t) ∧
      (∀ px py, (withI 0x000).spriteCovers 0 0 0 5 px py = true → (withI 0x000).pixel px py = false) ∧
      (withI 0x000).readByte (0 + 4) ≠ 0 := by
  refine ⟨by decide, ⟨_, rfl⟩, fun px py _ => ?_, by decide⟩
  simp [State.pixel, withI, State.reset, State.construct, State.setIndex]

/-- Only the last key pressed, and no key pressed. -/
theorem witness_KeyWaitTakesLeastKey :
    (∀ j : Fin 16, j < 15 → (State.reset.key.set 15 true)[j.val] = false) ∧ (State.reset.key.set 15 true)[15] = true ∧
      (∀ k : Fin 16, State.reset.key[k.val] = false) := by decide

/-- The other clause of `DrawTwiceRestores`: a sprite without a set bit, at the last address its rows fit. -/
theorem witness_DrawTwiceRestores_blank :
    (withI 0xFFE).index.toNat + (0x2 : Nibble).toNat ≤ 4096 ∧ (∃ t, exec (.drw 0x0 0x1 0x2) (withI 0xFFE) = .next t) ∧
      ∀ r < (0x2 : Nibble).toNat, (withI 0xFFE).readByte ((withI 0xFFE).index.toNat + r) = 0 :=
  ⟨by decide, ⟨_, rfl⟩, by decide⟩

theorem witness_KeyWaitUntilPressed :
    (about 0x200 0xF30A).AboutTo (.ldVxK 0x3) ∧ (about 0x200 0xF30A).Waiting := ⟨by decide, ⟨0x3, by decide⟩, by decide⟩

/-- The largest ROM that fits and the smallest that does not; a byte of a ROM. -/
theorem witness_LoadCopiesRom :
    (List.replicate 3584 (0x11 : Byte)).length ≤ 3584 ∧ (List.replicate 3585 (0x11 : Byte)).length > 3584 ∧
      3583 < (List.replicate 3584 (0x11 : Byte)).length := by
  simp only [List.length_replicate]; decide

theorem witness_BadKeyAndDisplayChangeNothing : 16 ≥ 16 ∧ 63 < 64 ∧ 31 < 32 ∧ 63 + 64 * 31 < 2048 := by decide

end Sys2Proof.Tests
end

section

/-! The fields of a word read as numbers (30_encoding R81): each field is a slice of the word's bits, so it is the word
divided by the power of two below the slice, modulo the power of two of its width. -/
namespace Sys2Proof

theorem fieldD1_toNat (w : Word) : (fieldD1 w).toNat = w.toNat / 4096 := by
  have hw : w.toNat < 65536 := w.isLt
  simp only [fieldD1, BitVec.extractLsb'_toNat, Nat.shiftRight_eq_div_pow]
  omega

theorem fieldX_toNat (w : Word) : (fieldX w).toNat = w.toNat / 256 % 16 := by
  simp [fieldX, BitVec.extractLsb'_toNat, Nat.shiftRight_eq_div_pow]

theorem fieldY_toNat (w : Word) : (fieldY w).toNat = w.toNat / 16 % 16 := by
  simp [fieldY, BitVec.extractLsb'_toNat, Nat.shiftRight_eq_div_pow]

theorem fieldN_toNat (w : Word) : (fieldN w).toNat = w.toNat % 16 := by
  simp [fieldN, BitVec.extractLsb'_toNat]

theorem fieldNN_toNat (w : Word) : (fieldNN w).toNat = w.toNat % 256 := by
  simp [fieldNN, BitVec.extractLsb'_toNat]

theorem fieldNNN_toNat (w : Word) : (fieldNNN w).toNat = w.toNat % 4096 := by
  simp [fieldNNN, BitVec.extractLsb'_toNat]

/-- Settles O6, field by field; d1 alone needs no remainder, since the word has only four bits above it. -/
theorem wordFields : Obligations.WordFields := fun w =>
  ⟨fieldD1_toNat w, fieldX_toNat w, fieldY_toNat w, fieldN_toNat w, fieldNN_toNat w, fieldNNN_toNat w⟩

end Sys2Proof
end

section

/-! What a step does once the word at pc has decoded (40_execute_cycle R100, R101): fetch and decode give the instruction
and the state with pc advanced, and a running engine performs it there. -/
namespace Sys2Proof.Machine

theorem State.fetchDecode_of_aboutTo {s : State} {i : Instr} (h : s.AboutTo i) :
    s.fetchDecode = .perform i (s.setPc (s.pc + 2)) := by
  obtain ⟨-, hfetch, hdecode⟩ := h
  rw [State.fetchDecode_eq, if_neg (Nat.not_le.2 hfetch), hdecode]

theorem step_of_aboutTo {s : State} {i : Instr} (h : s.AboutTo i) : step s = exec i (s.setPc (s.pc + 2)) := by
  have ⟨hrunning, _, _⟩ := h
  rw [step_running s hrunning, State.fetchDecode_of_aboutTo h]

/-- A fetch inside memory leaves pc far below the top of its 16 bits, so the advance does not wrap. -/
theorem State.pc_add_two_toNat {s : State} (h : s.CanFetch) : (s.pc + 2).toNat = s.pc.toNat + 2 :=
  BitVec.toNat_add_of_lt (show s.pc.toNat + 2 < 65536 by simp only [State.CanFetch] at h; omega)

theorem State.wordAtPc_toNat (s : State) :
    s.wordAtPc.toNat = 256 * (s.readByte s.pc.toNat).toNat + (s.readByte (s.pc.toNat + 1)).toNat :=
  wordOfBytes_toNat _ _

/-- Settles O8: the step by fetch and decode, the advance by the fetch bound, the word by its two bytes. -/
theorem stepRunsDecodedInstruction : Obligations.StepRunsDecodedInstruction := by
  intro s i h
  have ⟨_, hfetch, _⟩ := h
  exact ⟨step_of_aboutTo h, State.pc_add_two_toNat hfetch, s.wordAtPc_toNat⟩

end Sys2Proof.Machine
end

section

/-! The jump 1NNN (41_control_flow R122): its only effect is `State.setPc` at the address NNN, read as a number. -/
namespace Sys2Proof.Machine

/-- An address of 12 bits widened to a word is the same number. -/
@[simp] theorem addrOf_toNat (nnn : Addr12) : (addrOf nnn).toNat = nnn.toNat :=
  BitVec.toNat_setWidth_of_le (by decide)

theorem exec_jp (nnn : Addr12) (s : State) : exec (.jp nnn) s = .next (s.setPc (addrOf nnn)) := rfl

/-- Setting pc leaves every other component as it was. -/
theorem State.setPc_frame (s : State) (w : Word) : s.setPc w = { s with pc := (s.setPc w).pc } := rfl

theorem State.sameMemory_setPc (s : State) (w : Word) : s.SameMemory (s.setPc w) := s.readByte_setPc w

/-- Settles O21: the jump sets pc to NNN widened, and setting pc touches neither memory nor any other component. -/
theorem jumpSetsPc : Obligations.JumpSetsPc := fun nnn s =>
  ⟨s.setPc (addrOf nnn), exec_jp nnn s, addrOf_toNat nnn, s.setPc_frame _, s.sameMemory_setPc _⟩

end Sys2Proof.Machine
end

section

/-! Conditional skips (42_skips): each ends in `State.skipIf` with its condition, whose only effect is on pc. -/
namespace Sys2Proof.Machine

theorem State.skipIf_pc (s : State) (c : Bool) : (s.skipIf c).pc = if c then s.pc + 2 else s.pc := by
  rw [s.skipIf_eq, State.setPc_pc]

/-- A conditional skip, taken or not, leaves every component but pc as it was. -/
theorem State.skipIf_frame (s : State) (c : Bool) : s.skipIf c = { s with pc := (s.skipIf c).pc } := by
  rw [s.skipIf_eq]; exact s.setPc_frame _

theorem State.sameMemory_skipIf (s : State) (c : Bool) : s.SameMemory (s.skipIf c) := by
  rw [s.skipIf_eq]; exact s.sameMemory_setPc _

/-- pc after a skip on equal bytes. -/
theorem State.skipIf_beq_pc (s : State) (a b : Byte) :
    (s.skipIf (a == b)).pc = if a = b then s.pc + 2 else s.pc := by
  simp only [State.skipIf_pc, beq_iff_eq]

/-- pc after a skip on different bytes. -/
theorem State.skipIf_bne_pc (s : State) (a b : Byte) :
    (s.skipIf (a != b)).pc = if a = b then s.pc else s.pc + 2 := by
  simp only [State.skipIf_pc, bne_iff_ne, ite_not]

theorem exec_seImm (x : Nibble) (nn : Byte) (s : State) :
    exec (.seImm x nn) s = .next (s.skipIf (s.getV x == nn)) := rfl

theorem exec_sneImm (x : Nibble) (nn : Byte) (s : State) :
    exec (.sneImm x nn) s = .next (s.skipIf (s.getV x != nn)) := rfl

/-- Settles O27: both instructions are conditional skips, on V[X] = NN and on V[X] ≠ NN, and a conditional skip touches
neither memory nor any component but pc. -/
theorem skipOnImmediate : Obligations.SkipOnImmediate := fun x nn s =>
  ⟨⟨_, exec_seImm x nn s, s.skipIf_beq_pc _ _, s.skipIf_frame _, s.sameMemory_skipIf _⟩,
    ⟨_, exec_sneImm x nn s, s.skipIf_bne_pc _ _, s.skipIf_frame _, s.sameMemory_skipIf _⟩⟩

end Sys2Proof.Machine
end

section

/-! Writing V registers (43_alu): one write, and the pair of writes of the arithmetic instructions, the result and then
VF. Both touch neither memory nor any component but the registers. -/
namespace Sys2Proof.Machine

/-- Writing a register leaves every component but the registers as it was. -/
theorem State.setV_frame (s : State) (x : Nibble) (b : Byte) : s.setV x b = { s with v := (s.setV x b).v } := rfl

theorem State.sameMemory_setV (s : State) (x : Nibble) (b : Byte) : s.SameMemory (s.setV x b) := s.readByte_setV x b

/-- The writes of 8XY4, 8XY5 and 8XY7: V[X] <- r, then VF <- f (43_alu R166, R167, R170). -/
def State.setResultFlag (s : State) (x : Nibble) (r f : Byte) : State := (s.setV x r).setV vf f

/-- The flag is written last, so it wins where X is F. -/
theorem State.getV_setResultFlag (s : State) (x k : Nibble) (r f : Byte) :
    (s.setResultFlag x r f).getV k = if k = 0xF then f else if k = x then r else s.getV k := by
  rw [State.setResultFlag, State.getV_setV, State.getV_setV, vf]

theorem State.getV_setResultFlag_vf (s : State) (x : Nibble) (r f : Byte) :
    (s.setResultFlag x r f).getV 0xF = f := by
  rw [State.getV_setResultFlag, if_pos rfl]

theorem State.getV_setResultFlag_dest (s : State) {x : Nibble} (r f : Byte) (hx : x ≠ 0xF) :
    (s.setResultFlag x r f).getV x = r := by
  rw [State.getV_setResultFlag, if_neg hx, if_pos rfl]

theorem State.getV_setResultFlag_ne (s : State) {x k : Nibble} (r f : Byte) (hx : k ≠ x) (hf : k ≠ 0xF) :
    (s.setResultFlag x r f).getV k = s.getV k := by
  rw [State.getV_setResultFlag, if_neg hf, if_neg hx]

theorem State.setResultFlag_frame (s : State) (x : Nibble) (r f : Byte) :
    s.setResultFlag x r f = { s with v := (s.setResultFlag x r f).v } := rfl

theorem State.sameMemory_setResultFlag (s : State) (x : Nibble) (r f : Byte) :
    s.SameMemory (s.setResultFlag x r f) := fun _ => rfl

end Sys2Proof.Machine
end

section

/-! The instructions that write V[X] alone (43_alu R160 to R165): each is one `State.setV`. -/
namespace Sys2Proof.Machine

theorem exec_ldImm (x : Nibble) (nn : Byte) (s : State) : exec (.ldImm x nn) s = .next (s.setV x nn) := rfl

theorem exec_addImm (x : Nibble) (nn : Byte) (s : State) :
    exec (.addImm x nn) s = .next (s.setV x (s.getV x + nn)) := rfl

theorem exec_ldReg (x y : Nibble) (s : State) : exec (.ldReg x y) s = .next (s.setV x (s.getV y)) := rfl

theorem exec_and (x y : Nibble) (s : State) :
    exec (.and x y) s = .next (s.setV x (s.getV x &&& s.getV y)) := rfl

theorem exec_xor (x y : Nibble) (s : State) :
    exec (.xor x y) s = .next (s.setV x (s.getV x ^^^ s.getV y)) := rfl

/-- Settles O31: both instructions are one register write, of NN and of V[Y]. -/
theorem loadRegister : Obligations.LoadRegister := fun x y nn s =>
  ⟨⟨_, exec_ldImm x nn s, fun k => s.getV_setV x k nn, s.setV_frame x _, s.sameMemory_setV x _⟩,
    ⟨_, exec_ldReg x y s, fun k => s.getV_setV x k _, s.setV_frame x _, s.sameMemory_setV x _⟩⟩

/-- Settles O32: one register write, of a sum of bytes, which is the sum of the numbers modulo 256. -/
theorem addImmediateWraps : Obligations.AddImmediateWraps := by
  intro x nn s
  refine ⟨_, exec_addImm x nn s, ?_, fun k hk => s.getV_setV_ne _ hk, s.setV_frame x _, s.sameMemory_setV x _⟩
  rw [State.getV_setV_same, BitVec.toNat_add]

/-- Settles O33: each instruction is one register write, of the AND or the XOR of two bytes, which acts bit by bit. -/
theorem andXorBitwise : Obligations.AndXorBitwise := by
  intro x y s
  refine ⟨⟨_, exec_and x y s, fun b => ?_, fun k hk => s.getV_setV_ne _ hk, s.setV_frame x _, s.sameMemory_setV x _⟩,
    ⟨_, exec_xor x y s, fun b => ?_, fun k hk => s.getV_setV_ne _ hk, s.setV_frame x _, s.sameMemory_setV x _⟩⟩
  · rw [State.getV_setV_same, BitVec.getLsbD_and]
  · rw [State.getV_setV_same, BitVec.getLsbD_xor]

end Sys2Proof.Machine
end

section

/-! The arithmetic instructions that set VF (43_alu R173): each is one `State.setResultFlag`, of a sum or difference of
bytes and of a flag, so the table of R173 is the value of each flag. -/
namespace Sys2Proof.Machine

theorem exec_addReg (x y : Nibble) (s : State) : exec (.addReg x y) s =
    .next (s.setResultFlag x (s.getV x + s.getV y) (carryFlag (s.getV x) (s.getV y))) := rfl

theorem exec_sub (x y : Nibble) (s : State) : exec (.sub x y) s =
    .next (s.setResultFlag x (s.getV x - s.getV y) (notBorrowFlag (s.getV x) (s.getV y))) := rfl

theorem exec_subn (x y : Nibble) (s : State) : exec (.subn x y) s =
    .next (s.setResultFlag x (s.getV y - s.getV x) (borrowFlag (s.getV x) (s.getV y))) := rfl

theorem flagOf_decide (p : Prop) [Decidable p] : flagOf (decide p) = if p then 1 else 0 := by
  simp only [flagOf, decide_eq_true_eq]

theorem carryFlag_eq (a b : Byte) : carryFlag a b = if a.toNat + b.toNat > 255 then 1 else 0 := flagOf_decide _

theorem notBorrowFlag_eq (a b : Byte) : notBorrowFlag a b = if a.toNat ≥ b.toNat then 1 else 0 := flagOf_decide _

theorem borrowFlag_eq (a b : Byte) : borrowFlag a b = if b.toNat < a.toNat then 1 else 0 := flagOf_decide _

/-- A byte added to itself carries exactly from 0x80 up. -/
theorem carryFlag_eq_one_iff_of_eq {a b : Byte} (h : a.toNat = b.toNat) : carryFlag a b = 1 ↔ a.toNat ≥ 0x80 := by
  have hcarry : a.toNat + b.toNat > 255 ↔ a.toNat ≥ 0x80 := by omega
  simp [carryFlag_eq, hcarry]

theorem notBorrowFlag_of_eq {a b : Byte} (h : a.toNat = b.toNat) : notBorrowFlag a b = 1 := by
  rw [notBorrowFlag_eq, if_pos h.ge]

theorem borrowFlag_of_eq {a b : Byte} (h : a.toNat = b.toNat) : borrowFlag a b = 0 := by
  rw [borrowFlag_eq, if_neg h.not_gt]

/-- A difference of bytes is the difference of the numbers modulo 256, also where that is negative. -/
theorem byte_sub_toNat (a b : Byte) : ((a - b).toNat : Int) = ((a.toNat : Int) - b.toNat) % 256 := by
  rw [BitVec.toNat_sub]; omega

/-- Settles O35: result, flag, flag at equal operands, and frame of each of the three instructions. -/
theorem arithmeticFlagPolarity : Obligations.ArithmeticFlagPolarity := by
  intro x y s hx a b
  refine ⟨⟨_, exec_addReg x y s, ?_, ?_, fun h => ?_, fun k => s.getV_setResultFlag_ne _ _,
      s.setResultFlag_frame x _ _, s.sameMemory_setResultFlag x _ _⟩,
    ⟨_, exec_sub x y s, ?_, ?_, fun h => ?_, fun k => s.getV_setResultFlag_ne _ _,
      s.setResultFlag_frame x _ _, s.sameMemory_setResultFlag x _ _⟩,
    ⟨_, exec_subn x y s, ?_, ?_, fun h => ?_, fun k => s.getV_setResultFlag_ne _ _,
      s.setResultFlag_frame x _ _, s.sameMemory_setResultFlag x _ _⟩⟩
  · rw [s.getV_setResultFlag_dest _ _ hx, BitVec.toNat_add]
  · rw [State.getV_setResultFlag_vf, carryFlag_eq]
  · rw [State.getV_setResultFlag_vf, carryFlag_eq_one_iff_of_eq h]
  · rw [s.getV_setResultFlag_dest _ _ hx, byte_sub_toNat]
  · rw [State.getV_setResultFlag_vf, notBorrowFlag_eq]
  · rw [State.getV_setResultFlag_vf, notBorrowFlag_of_eq h]
  · rw [s.getV_setResultFlag_dest _ _ hx, byte_sub_toNat]
  · rw [State.getV_setResultFlag_vf, borrowFlag_eq]
  · rw [State.getV_setResultFlag_vf, borrowFlag_of_eq h]

end Sys2Proof.Machine
end

section

/-! Setting the index register (44_index_memory R190): one `State.setIndex`, whose only effect is on I. -/
namespace Sys2Proof.Machine

theorem exec_ldI (nnn : Addr12) (s : State) : exec (.ldI nnn) s = .next (s.setIndex (addrOf nnn)) := rfl

/-- Setting I leaves every other component as it was. -/
theorem State.setIndex_frame (s : State) (w : Word) : s.setIndex w = { s with index := (s.setIndex w).index } := rfl

theorem State.sameMemory_setIndex (s : State) (w : Word) : s.SameMemory (s.setIndex w) := s.readByte_setIndex w

/-- Settles O40: the load sets I to NNN widened, and setting I touches neither memory nor any other component. -/
theorem loadIndex : Obligations.LoadIndex := fun nnn s =>
  ⟨s.setIndex (addrOf nnn), exec_ldI nnn s, addrOf_toNat nnn, s.setIndex_frame _, s.sameMemory_setIndex _⟩

end Sys2Proof.Machine
end

section

/-! Clearing the screen (45_display R210): one `State.setFb`, whose only effect is on the framebuffer, of the framebuffer
that is false everywhere. -/
namespace Sys2Proof.Machine

theorem exec_cls (s : State) : exec .cls s = .next (s.setFb (Vector.replicate 2048 false)) := rfl

theorem State.pixel_setFb (s : State) (fb : Framebuffer) (x y : Nat) :
    (s.setFb fb).pixel x y = fb[(pixelIndex x y).val] := rfl

/-- Setting the framebuffer leaves every other component as it was. -/
theorem State.setFb_frame (s : State) (fb : Framebuffer) : s.setFb fb = { s with fb := (s.setFb fb).fb } := rfl

theorem State.sameMemory_setFb (s : State) (fb : Framebuffer) : s.SameMemory (s.setFb fb) := s.readByte_setFb fb

/-- Settles O48: every pixel of the framebuffer written is false, and writing it touches neither memory nor any other
component. -/
theorem clearScreen : Obligations.ClearScreen := by
  intro s
  refine ⟨_, exec_cls s, fun x y => ?_, s.setFb_frame _, s.sameMemory_setFb _⟩
  rw [State.pixel_setFb, Vector.getElem_replicate]

end Sys2Proof.Machine
end

section

/-! The timer registers (46_timers_keys R220, R222, R223): FX07 is one `State.setV`, FX15 one `State.setDt` and FX18 one
`State.setSt`. -/
namespace Sys2Proof.Machine

theorem exec_ldVxDt (x : Nibble) (s : State) : exec (.ldVxDt x) s = .next (s.setV x s.dt) := rfl

theorem exec_ldDtVx (x : Nibble) (s : State) : exec (.ldDtVx x) s = .next (s.setDt (s.getV x)) := rfl

theorem exec_ldStVx (x : Nibble) (s : State) : exec (.ldStVx x) s = .next (s.setSt (s.getV x)) := rfl

/-- Setting DT leaves every other component as it was. -/
theorem State.setDt_frame (s : State) (b : Byte) : s.setDt b = { s with dt := (s.setDt b).dt } := rfl

theorem State.sameMemory_setDt (s : State) (b : Byte) : s.SameMemory (s.setDt b) := s.readByte_setDt b

/-- Setting ST leaves every other component as it was. -/
theorem State.setSt_frame (s : State) (b : Byte) : s.setSt b = { s with st := (s.setSt b).st } := rfl

theorem State.sameMemory_setSt (s : State) (b : Byte) : s.SameMemory (s.setSt b) := s.readByte_setSt b

/-- Settles O51: FX07 is one register write, of DT; FX15 and FX18 are one write of V[X], to DT and to ST; and none of the
three writes touches memory or any other component. -/
theorem timerRegisters : Obligations.TimerRegisters := fun x s =>
  ⟨⟨_, exec_ldVxDt x s, fun k => s.getV_setV x k _, s.setV_frame x _, s.sameMemory_setV x _⟩,
    ⟨_, exec_ldDtVx x s, s.setDt_dt _, s.setDt_frame _, s.sameMemory_setDt _⟩,
    ⟨_, exec_ldStVx x s, s.setSt_st _, s.setSt_frame _, s.sameMemory_setSt _⟩⟩

end Sys2Proof.Machine
end

section

/-! The host's key switch (60_exceptions R253): below 16 it is one update of the key vector, whatever the rest of the
state holds. -/
namespace Sys2Proof.Machine

/-- The host's move at an index below 16 is one update of the key vector, with no premise on the state. -/
theorem hostMove_setKey_of_lt {k : Nat} (hk : k < 16) (p : Bool) (s : State) :
    hostMove (.setKey k p) s = ({ s with key := s.key.set k p hk }, .ok) := dif_pos hk

/-- A key after key `k` was set: the new level at `k`, the old one at every other key. -/
theorem State.key_set_getElem (s : State) (k j : Fin 16) (p : Bool) :
    (s.key.set k.val p)[j.val] = if j = k then p else s.key[j.val] := by
  rw [Vector.getElem_set]
  exact if_congr (eq_comm.trans Fin.ext_iff.symm) rfl rfl

/-- Settles O58: the host's move is one update of the key vector, which acts on key `k` alone. -/
theorem setKeySetsOneKey : Obligations.SetKeySetsOneKey := fun k p s =>
  ⟨_, hostMove_setKey_of_lt k.isLt p s, fun j => s.key_set_getElem k j p, rfl⟩

end Sys2Proof.Machine
end

section

/-! The state `construct()` leaves (70_reset_and_hazards R280): memory lists nothing, so it reads as FONT and zeros, and
each vector is one value throughout. -/
namespace Sys2Proof.Machine

theorem State.readByte_construct (p : Config.Params) (a : Nat) :
    (State.construct p).readByte a = Memory.unlisted p.font a := Memory.read_nil p.font a

theorem State.getV_construct (p : Config.Params) (x : Nibble) : (State.construct p).getV x = 0 :=
  Vector.getElem_replicate x.isLt

theorem State.pixel_construct (p : Config.Params) (x y : Nat) : (State.construct p).pixel x y = false :=
  Vector.getElem_replicate (pixelIndex x y).isLt

/-- Settles O60: memory at every address, every entry of the four vectors, and the scalar components as constructed. -/
theorem constructLeavesResetValues : Obligations.ConstructLeavesResetValues := fun p =>
  ⟨State.readByte_construct p, rfl, rfl, State.getV_construct p, fun k => Vector.getElem_replicate k.isLt, rfl,
    State.pixel_construct p, fun k => Vector.getElem_replicate k.isLt, rfl, rfl, rfl⟩

end Sys2Proof.Machine
end

section

/-! The bytes FX33 and FX55 store (44_index_memory R193, R194), and that a fetch reads memory as it stands, with nothing
cached (70_reset_and_hazards R287): the word at pc is made of the two bytes memory holds there. -/
namespace Sys2Proof.Machine

/-- A word fetched at address `a` begins with the byte memory holds there. -/
theorem State.highByte_wordAtPc (t : State) {a : Nat} (h : t.pc.toNat = a) :
    highByte t.wordAtPc = t.readByte a := by
  rw [State.wordAtPc, highByte_wordOfBytes, h]

/-- A word fetched just below address `a` ends with the byte memory holds there. -/
theorem State.lowByte_wordAtPc (t : State) {a : Nat} (h : t.pc.toNat + 1 = a) :
    lowByte t.wordAtPc = t.readByte a := by
  rw [State.wordAtPc, lowByte_wordOfBytes, h]

theorem State.regsUpTo_length (s : State) (x : Nibble) : (s.regsUpTo x).length = x.toNat + 1 := by
  have hx : x.toNat < 16 := x.isLt
  rw [State.regsUpTo, List.length_take, Vector.length_toList, regCount]
  omega

theorem State.regsUpTo_getElem (s : State) {x k : Nibble} (hk : k.toNat < (s.regsUpTo x).length) :
    (s.regsUpTo x)[k.toNat] = s.getV k := by
  simp only [State.regsUpTo, List.getElem_take, Vector.getElem_toList, State.getV]

/-- Digit `k` of a byte, hundreds first, is the quotient by its power of ten, modulo ten. -/
theorem bcdDigits_getElem_toNat (b : Byte) (k : Fin 3) :
    ((bcdDigits b)[k.val]'k.isLt).toNat = b.toNat / 10 ^ (2 - k.val) % 10 := by
  have hb : b.toNat < 256 := b.isLt
  match k with
  | 0 => simp [bcdDigits]; omega
  | 1 => simp [bcdDigits]; omega
  | 2 => simp [bcdDigits]; omega

theorem exec_ldMemVx_of_inRange {x : Nibble} {s : State} (h : s.index.toNat + x.toNat + 1 ≤ 4096) :
    exec (.ldMemVx x) s = .next (s.storeBytes s.index.toNat (s.regsUpTo x)) := if_pos h

theorem exec_ldBVx_of_inRange {x : Nibble} {s : State} (h : s.index.toNat + 3 ≤ 4096) :
    exec (.ldBVx x) s = .next (s.storeBytes s.index.toNat (bcdDigits (s.getV x))) := if_pos h

/-- What FX55 leaves at I + k is V[k], for every k up to X. -/
theorem readByte_of_exec_ldMemVx {x k : Nibble} {s t : State} (h : s.index.toNat + x.toNat + 1 ≤ 4096)
    (ht : exec (.ldMemVx x) s = .next t) (hk : k.toNat ≤ x.toNat) :
    t.readByte (s.index.toNat + k.toNat) = s.getV k := by
  have hlen := s.regsUpTo_length x
  obtain rfl := Host.Outcome.next.inj ((exec_ldMemVx_of_inRange h).symm.trans ht)
  rw [State.readByte_storeBytes_inside _ _ _ _ (by omega) (by omega), State.regsUpTo_getElem]

/-- What FX33 leaves at I + k is decimal digit `k` of V[X], hundreds first. -/
theorem readByte_toNat_of_exec_ldBVx {x : Nibble} {s t : State} (h : s.index.toNat + 3 ≤ 4096)
    (ht : exec (.ldBVx x) s = .next t) (k : Fin 3) :
    (t.readByte (s.index.toNat + k.val)).toNat = (s.getV x).toNat / 10 ^ (2 - k.val) % 10 := by
  obtain rfl := Host.Outcome.next.inj ((exec_ldBVx_of_inRange h).symm.trans ht)
  rw [s.readByte_storeBytes_inside _ (bcdDigits (s.getV x)) k.val k.isLt h, bcdDigits_getElem_toNat]

/-- Settles O47: the byte each instruction stored is in memory, and a fetch over it reads it from there, as the high or as
the low byte of its word. -/
theorem fetchSeesStores : Obligations.FetchSeesStores := by
  intro x s t
  refine ⟨fun hrange ht k hk => ?_, fun hrange ht k => ?_⟩
  · have hstored := readByte_of_exec_ldMemVx hrange ht hk
    exact ⟨fun hpc => (t.highByte_wordAtPc hpc).trans hstored, fun hpc => (t.lowByte_wordAtPc hpc).trans hstored⟩
  · have hstored := readByte_toNat_of_exec_ldBVx hrange ht k
    exact ⟨fun hpc => t.highByte_wordAtPc hpc ▸ hstored, fun hpc => t.lowByte_wordAtPc hpc ▸ hstored⟩

end Sys2Proof.Machine
end

section

/-! The decoder and the encoder are inverse to each other (30_encoding §1 to §3): the fields of an encoded word are the
operands, and a word is put together again from the fields its decoding read. -/
namespace Sys2Proof

open Machine

theorem decodeWord_encode (i : Instr) : decodeWord (encode i) = .instr i := by
  cases i with
  | nop | cls | ret => decide
  | jp | call | ldI | jpV0 | seImm | sneImm | ldImm | addImm | rnd | seReg | sneReg | drw =>
    simp [encode, decodeWord]
  | ldReg | or | and | xor | addReg | sub | shr | subn | shl => simp [encode, decodeWord, decodeAlu]
  | skp | sknp => simp [encode, decodeWord, decodeKey]
  | ldVxDt | ldVxK | ldDtVx | ldStVx | addIVx | ldFVx | ldBVx | ldMemVx | ldVxMem =>
    simp [encode, decodeWord, decodeMisc]

/-- The two bytes of a word, whatever follows them, decode as the word does. -/
theorem decodeBytes_of_decodeWord {w : Word} {i : Instr} (h : decodeWord w = .instr i) (rest : List Byte) :
    decodeBytes ([highByte w, lowByte w] ++ rest) = .ok (i, rest) := by
  simp only [List.cons_append, List.nil_append, decodeBytes, wordOfBytes_high_low, h]

/-- Settles O1: every instruction's word decodes to it, and its bytes as its word does. -/
theorem decodeInvertsEncode : Obligations.DecodeInvertsEncode := fun i rest =>
  ⟨decodeWord_encode i, decodeBytes_of_decodeWord (decodeWord_encode i) rest⟩

/-! ### A word is the encoding of what it decodes to -/

theorem formatNNN_of_fields {w : Word} {op : Nibble} {nnn : Addr12} (hd : fieldD1 w = op) (hnnn : fieldNNN w = nnn) :
    formatNNN op nnn = w := by
  rw [← hd, ← hnnn, formatNNN_fields]

theorem formatXNN_of_fields {w : Word} {op : Nibble} {nn : Byte} (hd : fieldD1 w = op) (hnn : fieldNN w = nn) :
    formatXNN op (fieldX w) nn = w := by
  rw [← hd, ← hnn, formatXNN_fields]

theorem formatXYN_of_fields {w : Word} {op n : Nibble} (hd : fieldD1 w = op) (hn : fieldN w = n) :
    formatXYN op (fieldX w) (fieldY w) n = w := by
  rw [← hd, ← hn, formatXYN_fields]

theorem encode_of_decodeFixed {w : Word} {i : Instr} (hd : fieldD1 w = 0x0) (h : decodeFixed w = .instr i) :
    encode i = w := by
  unfold decodeFixed at h
  split at h <;> cases h <;> exact formatNNN_of_fields hd ‹_›

theorem encode_of_decodeAlu {w : Word} {i : Instr} (hd : fieldD1 w = 0x8) (h : decodeAlu w = .instr i) :
    encode i = w := by
  unfold decodeAlu at h
  split at h <;> cases h <;> exact formatXYN_of_fields hd ‹_›

theorem encode_of_decodeKey {w : Word} {i : Instr} (hd : fieldD1 w = 0xE) (h : decodeKey w = .instr i) :
    encode i = w := by
  unfold decodeKey at h
  split at h <;> cases h <;> exact formatXNN_of_fields hd ‹_›

theorem encode_of_decodeMisc {w : Word} {i : Instr} (hd : fieldD1 w = 0xF) (h : decodeMisc w = .instr i) :
    encode i = w := by
  unfold decodeMisc at h
  split at h <;> cases h <;> exact formatXNN_of_fields hd ‹_›

/-- Whatever word decodes to an instruction is that instruction's word: each arm of the decoder fixes d1, and with it
the digits that are no operand, and takes the operands from the other fields. -/
theorem encode_of_decodeWord {w : Word} {i : Instr} (h : decodeWord w = .instr i) : encode i = w := by
  unfold decodeWord at h
  split at h
  case h_1 hd => exact encode_of_decodeFixed hd h
  case h_9 hd => exact encode_of_decodeAlu hd h
  case h_15 hd => exact encode_of_decodeKey hd h
  case h_16 hd => exact encode_of_decodeMisc hd h
  case h_6 hd | h_10 hd =>
    split at h
    next hn => cases h; exact formatXYN_of_fields hd hn
    next => cases h
  case h_2 hd | h_3 hd | h_11 hd | h_12 hd => cases h; exact formatNNN_of_fields hd rfl
  case h_4 hd | h_5 hd | h_7 hd | h_8 hd | h_13 hd => cases h; exact formatXNN_of_fields hd rfl
  case h_14 hd => cases h; exact formatXYN_of_fields hd rfl
  case h_17 => cases h

/-- Settles O2: the word is put together again from its fields. -/
theorem encodeInvertsDecode : Obligations.EncodeInvertsDecode := fun _ _ => encode_of_decodeWord

end Sys2Proof
end

section

/-! The decoder and the opcode map (30_encoding R84 to R88): the 35 rows are disjoint, a word that matches one decodes
to its instruction, and a word that matches none to "unrecognized". -/
namespace Sys2Proof

open Laws

/-- The word of every instruction matches the row it stands for. -/
theorem encode_matches_row : ∀ i : Instr, EncodingMatchesRow.Statement i
  | .nop => EncodingMatchesRow.nop
  | .cls => EncodingMatchesRow.cls
  | .ret => EncodingMatchesRow.ret
  | .jp nnn => EncodingMatchesRow.jp nnn
  | .call nnn => EncodingMatchesRow.call nnn
  | .seImm x nn => EncodingMatchesRow.seImm x nn
  | .sneImm x nn => EncodingMatchesRow.sneImm x nn
  | .seReg x y => EncodingMatchesRow.seReg x y
  | .ldImm x nn => EncodingMatchesRow.ldImm x nn
  | .addImm x nn => EncodingMatchesRow.addImm x nn
  | .ldReg x y => EncodingMatchesRow.ldReg x y
  | .or x y => EncodingMatchesRow.or x y
  | .and x y => EncodingMatchesRow.and x y
  | .xor x y => EncodingMatchesRow.xor x y
  | .addReg x y => EncodingMatchesRow.addReg x y
  | .sub x y => EncodingMatchesRow.sub x y
  | .shr x y => EncodingMatchesRow.shr x y
  | .subn x y => EncodingMatchesRow.subn x y
  | .shl x y => EncodingMatchesRow.shl x y
  | .sneReg x y => EncodingMatchesRow.sneReg x y
  | .ldI nnn => EncodingMatchesRow.ldI nnn
  | .jpV0 nnn => EncodingMatchesRow.jpV0 nnn
  | .rnd x nn => EncodingMatchesRow.rnd x nn
  | .drw x y n => EncodingMatchesRow.drw x y n
  | .skp x => EncodingMatchesRow.skp x
  | .sknp x => EncodingMatchesRow.sknp x
  | .ldVxDt x => EncodingMatchesRow.ldVxDt x
  | .ldVxK x => EncodingMatchesRow.ldVxK x
  | .ldDtVx x => EncodingMatchesRow.ldDtVx x
  | .ldStVx x => EncodingMatchesRow.ldStVx x
  | .addIVx x => EncodingMatchesRow.addIVx x
  | .ldFVx x => EncodingMatchesRow.ldFVx x
  | .ldBVx x => EncodingMatchesRow.ldBVx x
  | .ldMemVx x => EncodingMatchesRow.ldMemVx x
  | .ldVxMem x => EncodingMatchesRow.ldVxMem x

/-- Two rows whose match values agree on the digits both masks select are one row. -/
theorem opcodeTable_eq_of_values_agree :
    ∀ r ∈ opcodeTable, ∀ q ∈ opcodeTable, r.value &&& q.mask = q.value &&& r.mask → r = q := by
  decide

theorem opcodeTable_eq_of_number_eq :
    ∀ r ∈ opcodeTable, ∀ q ∈ opcodeTable, r.number = q.number → r = q := by
  decide

/-- Settles O5: a word matching both rows would make their match values agree on the digits both masks select. -/
theorem opcodeRowsDisjoint : Obligations.OpcodeRowsDisjoint := by
  intro w r q hr hq hrw hqw
  refine opcodeTable_eq_of_values_agree r hr q hq ?_
  rw [← hrw, ← hqw, BitVec.and_assoc, BitVec.and_comm r.mask, ← BitVec.and_assoc]

/-! ### Masks, field by field -/

theorem fieldD1_and (w m : Word) : fieldD1 (w &&& m) = fieldD1 w &&& fieldD1 m := BitVec.extractLsb'_and

theorem fieldN_and (w m : Word) : fieldN (w &&& m) = fieldN w &&& fieldN m := BitVec.extractLsb'_and

theorem fieldNN_and (w m : Word) : fieldNN (w &&& m) = fieldNN w &&& fieldNN m := BitVec.extractLsb'_and

theorem fieldNNN_and (w m : Word) : fieldNNN (w &&& m) = fieldNNN w &&& fieldNNN m := BitVec.extractLsb'_and

/-! ### A matching word is recognized -/

/-- The digits that decide whether a word is recognized: d1, and with it NNN in family 0, N in families 5, 8 and 9,
and NN in families E and F. -/
structure SameDecidingDigits (w v : Word) : Prop where
  d1 : fieldD1 w = fieldD1 v
  nnn : fieldD1 v = 0x0 → fieldNNN w = fieldNNN v
  n : fieldD1 v = 0x5 ∨ fieldD1 v = 0x8 ∨ fieldD1 v = 0x9 → fieldN w = fieldN v
  nn : fieldD1 v = 0xE ∨ fieldD1 v = 0xF → fieldNN w = fieldNN v

/-- Words with the same deciding digits are recognized alike. -/
theorem decodeWord_unrecognized_congr {w v : Word} (hs : SameDecidingDigits w v)
    (h : decodeWord w = .unrecognized w) : decodeWord v = .unrecognized v := by
  obtain ⟨hd, hnnn, hn, hnn⟩ := hs
  unfold decodeWord at h ⊢
  rw [hd] at h
  split at h
  case h_1 h0 =>
    unfold decodeFixed at h ⊢
    rw [hnnn h0] at h
    split at h <;> simp_all
  case h_6 h5 =>
    rw [hn (.inl h5)] at h
    split at h <;> simp_all
  case h_9 h8 =>
    unfold decodeAlu at h ⊢
    rw [hn (.inr (.inl h8))] at h
    split at h <;> simp_all
  case h_10 h9 =>
    rw [hn (.inr (.inr h9))] at h
    split at h <;> simp_all
  case h_15 hE =>
    unfold decodeKey at h ⊢
    rw [hnn (.inl hE)] at h
    split at h <;> simp_all
  case h_16 hF =>
    unfold decodeMisc at h ⊢
    rw [hnn (.inr hF)] at h
    split at h <;> simp_all
  case h_17 => rfl
  all_goals cases h

/-- The masks of 30_encoding R85 select every deciding digit. -/
theorem opcodeTable_masks : ∀ r ∈ opcodeTable, fieldD1 r.mask = 0xF ∧
    (fieldD1 r.value = 0x0 → fieldNNN r.mask = 0xFFF) ∧
    (fieldD1 r.value = 0x5 ∨ fieldD1 r.value = 0x8 ∨ fieldD1 r.value = 0x9 → fieldN r.mask = 0xF) ∧
    (fieldD1 r.value = 0xE ∨ fieldD1 r.value = 0xF → fieldNN r.mask = 0xFF) := by decide

theorem opcodeTable_values_decode : ∀ r ∈ opcodeTable, decodeWord r.value ≠ .unrecognized r.value := by decide

theorem sameDecidingDigits_of_matches {r : OpcodeRow} {w : Word} (hr : r ∈ opcodeTable) (h : r.Matches w) :
    SameDecidingDigits w r.value := by
  obtain ⟨hd, hnnn, hn, hnn⟩ := opcodeTable_masks r hr
  have h : w &&& r.mask = r.value := h
  refine ⟨?_, fun h0 => ?_, fun h0 => ?_, fun h0 => ?_⟩
  · rw [← h, fieldD1_and, hd]
    exact (BitVec.and_allOnes (x := fieldD1 w)).symm
  · rw [← h, fieldNNN_and, hnnn h0]
    exact BitVec.and_allOnes.symm
  · rw [← h, fieldN_and, hn h0]
    exact BitVec.and_allOnes.symm
  · rw [← h, fieldNN_and, hnn h0]
    exact BitVec.and_allOnes.symm

theorem exists_decodeWord_or_unrecognized (w : Word) :
    (∃ i, decodeWord w = .instr i) ∨ decodeWord w = .unrecognized w := by
  unfold decodeWord decodeFixed decodeAlu decodeKey decodeMisc
  split
  case h_17 => exact .inr rfl
  case h_1 | h_6 | h_9 | h_10 | h_15 | h_16 => split <;> simp
  all_goals exact .inl ⟨_, rfl⟩

/-- A word that matches a row of the map decodes to an instruction: otherwise the row's own match value, which has the
same deciding digits, would decode to none. -/
theorem exists_decodeWord_of_matches {r : OpcodeRow} {w : Word} (hr : r ∈ opcodeTable) (h : r.Matches w) :
    ∃ i, decodeWord w = .instr i :=
  (exists_decodeWord_or_unrecognized w).resolve_right fun hu =>
    opcodeTable_values_decode r hr (decodeWord_unrecognized_congr (sameDecidingDigits_of_matches hr h) hu)

/-- A word that decodes to an instruction matches that instruction's row. -/
theorem exists_row_of_decodeWord {w : Word} {i : Instr} (h : decodeWord w = .instr i) :
    ∃ r ∈ opcodeTable, r.number = i.rowNumber ∧ r.Matches w := by
  have hrow := encode_matches_row i
  rwa [EncodingMatchesRow.Statement, encode_of_decodeWord h] at hrow

/-- Settles O3: a matching word decodes to an instruction, whose own row it matches too, and rows are disjoint; the
other way, an instruction's word matches its row, and the numbers tell the rows apart. -/
theorem decoderFollowsMaskAndMatch : Obligations.DecoderFollowsMaskAndMatch := by
  intro w r hr
  constructor
  · intro hmatch
    obtain ⟨i, hi⟩ := exists_decodeWord_of_matches hr hmatch
    obtain ⟨q, hq, hnumber, hqmatch⟩ := exists_row_of_decodeWord hi
    obtain rfl := opcodeRowsDisjoint w r q hr hq hmatch hqmatch
    exact ⟨i, hi, hnumber.symm⟩
  · rintro ⟨i, hi, hnumber⟩
    obtain ⟨q, hq, hqnumber, hqmatch⟩ := exists_row_of_decodeWord hi
    obtain rfl := opcodeTable_eq_of_number_eq r hr q hq (hnumber.symm.trans hqnumber.symm)
    exact hqmatch

theorem wordLegal_iff {w : Word} : wordLegal w = true ↔ ∃ r ∈ opcodeTable, r.Matches w := by
  simp only [wordLegal, List.any_eq_true, decide_eq_true_eq]

theorem wordLegal_of_decodeWord {w : Word} {i : Instr} (h : decodeWord w = .instr i) : wordLegal w = true := by
  obtain ⟨r, hr, -, hmatch⟩ := exists_row_of_decodeWord h
  exact wordLegal_iff.2 ⟨r, hr, hmatch⟩

theorem wordLegal_of_unrecognized {w : Word} (h : decodeWord w = .unrecognized w) : wordLegal w = false := by
  refine Bool.eq_false_iff.2 fun hlegal => ?_
  obtain ⟨r, hr, hmatch⟩ := wordLegal_iff.1 hlegal
  obtain ⟨i, hi⟩ := exists_decodeWord_of_matches hr hmatch
  exact Decoded.noConfusion (hi.symm.trans h)

/-- Settles O4: the decoder's two verdicts, each with what it says of the map. -/
theorem decoderIsTotal : Obligations.DecoderIsTotal := fun w =>
  (exists_decodeWord_or_unrecognized w).imp (fun ⟨i, hi⟩ => ⟨i, hi, wordLegal_of_decodeWord hi⟩)
    fun hu => ⟨hu, wordLegal_of_unrecognized hu⟩

/-- Settles O7 by running the decoder on each word. -/
theorem writtenWordsDecode : Obligations.WrittenWordsDecode := by
  unfold Obligations.WrittenWordsDecode; decide

end Sys2Proof
end

section

/-! Faults inside an instruction (60_exceptions R240, codes 3 to 6): an instruction that is due a fault raises it, and
does nothing else. -/
namespace Sys2Proof.Machine

/-- `instrFault` speaks of the state before the fetch, hence the pc taken back by 2. -/
theorem exec_of_instrFault {i : Instr} {s : State} {r : FaultRecord}
    (h : (s.setPc (s.pc - 2)).instrFault i (encode i) = some r) : exec i s = s.raise r := by
  rcases exec_cases i s with ⟨_, -, -, hnone⟩ | ⟨q, hraise, hdue⟩
  · exact absurd ((hnone _).symm.trans h) nofun
  · rw [hraise, Option.some.inj (hdue.symm.trans h)]

/-- An instruction that accesses memory is due a fault exactly when its range does not lie inside memory. -/
theorem State.instrFault_of_accessLength (s : State) {i : Instr} {n : Nat} (h : accessLength i = some n) (w : Word) :
    s.instrFault i w =
      if s.index.toNat + n > 4096 then some (.memoryOutOfBounds s.pc w s.index n) else none := by
  cases i <;> simp only [accessLength, Option.some.injEq, reduceCtorEq] at h <;> subst h <;> rfl

/-- The record of an instruction's fault holds the instruction's address and its word. -/
theorem State.instrFault_record {s : State} {i : Instr} {w : Word} {r : FaultRecord}
    (h : s.instrFault i w = some r) : r.instrPc = s.pc ∧ r.opcode = some w := by
  unfold State.instrFault at h
  split at h
  case h_5 =>
    split at h
    · split at h <;> cases h; exact ⟨rfl, rfl⟩
    · cases h
  all_goals split at h <;> cases h; exact ⟨rfl, rfl⟩

/-- Settles O45: the fault each of the four instructions is due when its range leaves memory. -/
theorem memoryRangeFaults : Obligations.MemoryRangeFaults := fun _ _ _ hlen hrange =>
  exec_of_instrFault ((State.instrFault_of_accessLength _ hlen _).trans (if_pos hrange))

/-- Settles O25: the faults due at sp = 16 and at sp = 0. -/
theorem stackFaults : Obligations.StackFaults := fun _ _ =>
  ⟨fun hfull => exec_of_instrFault (if_pos hfull), fun hempty => exec_of_instrFault (if_pos hempty)⟩

/-- Settles O30: the fault due when V[X] is no key's index. -/
theorem keyIndexFaults : Obligations.KeyIndexFaults := fun _ _ hindex =>
  ⟨exec_of_instrFault (if_pos hindex), exec_of_instrFault (if_pos hindex)⟩

end Sys2Proof.Machine
end

section

/-! Control flow (41_control_flow): 0000 does nothing, BNNN is one `State.setPc`, and where the stack allows it 2NNN and
00EE are one push and one pop, each followed by a `State.setPc`. -/
namespace Sys2Proof.Machine

theorem exec_nop (s : State) : exec .nop s = .next s := rfl

theorem exec_jpV0 (nnn : Addr12) (s : State) :
    exec (.jpV0 nnn) s = .next (s.setPc (zextByte (s.getV 0x0) + addrOf nnn)) := rfl

/-- The state a call leaves, with room on the stack: the return address in the entry at sp, and sp one higher. -/
theorem exec_call_of_lt {s : State} (h : s.sp.val < 16) (nnn : Addr12) : exec (.call nnn) s =
    .next { s with
      stack := s.stack.set s.sp.val s.pc h, sp := ⟨s.sp.val + 1, Nat.succ_lt_succ h⟩, pc := addrOf nnn } := by
  simp only [exec, execCall, s.push_of_lt s.pc h, State.setPc]

/-- The state a return leaves, with an entry pushed: the entry below sp in pc, and sp one lower. -/
theorem exec_ret_of_pos {s : State} (h : 0 < s.sp.val) : exec .ret s =
    .next { s with sp := ⟨s.sp.val - 1, by omega⟩, pc := s.stack[s.sp.val - 1]'(by omega) } := by
  simp only [exec, execRet, s.pop_of_pos h, State.setPc]

theorem zextByte_toNat (b : Byte) : (zextByte b).toNat = b.toNat := BitVec.toNat_setWidth_of_le (by decide)

/-- A byte and an address of 12 bits sum to at most 0x10FE, so the sum does not wrap. -/
theorem zextByte_add_addrOf_toNat (b : Byte) (nnn : Addr12) :
    (zextByte b + addrOf nnn).toNat = b.toNat + nnn.toNat := by
  have hb : b.toNat < 256 := b.isLt
  have hn : nnn.toNat < 4096 := nnn.isLt
  rw [BitVec.toNat_add, zextByte_toNat, addrOf_toNat, Nat.mod_eq_of_lt (by omega)]

/-- Settles O20: the meaning of 0000 answers the state it is given. -/
theorem nopChangesNothing : Obligations.NopChangesNothing := exec_nop

/-- Settles O22: one write of pc, of a sum that does not wrap. -/
theorem jumpV0AddsWithoutWrap : Obligations.JumpV0AddsWithoutWrap := fun nnn s =>
  ⟨_, exec_jpV0 nnn s, zextByte_add_addrOf_toNat _ nnn, s.setPc_frame _, s.sameMemory_setPc _⟩

/-- Settles O23: the call writes the entry at sp and no other. -/
theorem callPushesReturnAddress : Obligations.CallPushesReturnAddress := by
  intro nnn s hroom
  refine ⟨_, exec_call_of_lt hroom nnn, addrOf_toNat nnn, rfl, fun k => ?_, rfl, fun _ => rfl⟩
  rw [Vector.getElem_set]
  exact if_congr eq_comm rfl rfl

/-- Settles O24: the return reads the entry below sp, which stays. -/
theorem returnPopsReturnAddress : Obligations.ReturnPopsReturnAddress := by
  intro s k hsp
  refine ⟨_, exec_ret_of_pos (by omega), ?_, ?_, rfl, fun _ => rfl⟩
  · simp only [hsp, Nat.add_sub_cancel]
  · simp only [hsp, Nat.add_sub_cancel]

/-- Settles O26: the entry the return reads is the one the call wrote, since sp and the stack are as the call left
them. -/
theorem returnUndoesCall : Obligations.ReturnUndoesCall := by
  intro nnn s t u hroom hcall hsp hstack
  obtain rfl := Host.Outcome.next.inj ((exec_call_of_lt hroom nnn).symm.trans hcall)
  have hu : u.sp.val = s.sp.val + 1 := congrArg Fin.val hsp
  refine ⟨_, exec_ret_of_pos (by omega), ?_, Fin.ext ?_⟩
  · simp only [hu, hstack, Nat.add_sub_cancel, Vector.getElem_set_self]
  · simp only [hu, Nat.add_sub_cancel]

end Sys2Proof.Machine
end

section

/-! Skips on registers and on keys (42_skips R142 to R145): each is one `State.skipIf`; the key's index is below 16. -/
namespace Sys2Proof.Machine

theorem exec_seReg (x y : Nibble) (s : State) : exec (.seReg x y) s = .next (s.skipIf (s.getV x == s.getV y)) := rfl

theorem exec_sneReg (x y : Nibble) (s : State) : exec (.sneReg x y) s = .next (s.skipIf (s.getV x != s.getV y)) := rfl

theorem exec_skp_of_lt {x : Nibble} {s : State} (h : (s.getV x).toNat < 16) :
    exec (.skp x) s = .next (s.skipIf s.key[(s.getV x).toNat]) := dif_pos h

theorem exec_sknp_of_lt {x : Nibble} {s : State} (h : (s.getV x).toNat < 16) :
    exec (.sknp x) s = .next (s.skipIf !s.key[(s.getV x).toNat]) := dif_pos h

/-- Settles O28: conditional skips on V[X] = V[Y] and on V[X] ≠ V[Y]. -/
theorem skipOnRegisters : Obligations.SkipOnRegisters := fun x y s =>
  ⟨⟨_, exec_seReg x y s, s.skipIf_beq_pc _ _, s.skipIf_frame _, s.sameMemory_skipIf _⟩,
    ⟨_, exec_sneReg x y s, s.skipIf_bne_pc _ _, s.skipIf_frame _, s.sameMemory_skipIf _⟩⟩

/-- Settles O29: conditional skips on the level of key V[X] and on its negation. -/
theorem skipOnKey : Obligations.SkipOnKey := by
  intro x s k hk
  have hlt : (s.getV x).toNat < 16 := hk ▸ k.isLt
  refine ⟨⟨_, exec_skp_of_lt hlt, ?_, s.skipIf_frame _, s.sameMemory_skipIf _⟩,
    ⟨_, exec_sknp_of_lt hlt, ?_, s.skipIf_frame _, s.sameMemory_skipIf _⟩⟩
  · simp only [State.skipIf_pc, hk]
  · simp only [State.skipIf_pc, hk]
    cases s.key[k.val] <;> rfl

end Sys2Proof.Machine
end

section

/-! The rest of the arithmetic (43_alu): 8XY1 under the switch, 8XY4, 8XY5 and 8XY7 on VF itself, the two shifts, which
write VF first, and CXNN. -/
namespace Sys2Proof.Machine

theorem exec_or (x y : Nibble) (s : State) :
    exec (.or x y) s = .next (s.setV x (s.getV x ||| s.getV (s.orSource x y))) := rfl

/-- The writes of 8XY6 and 8XYE: VF <- f, then V[X] <- g of what V[X] then holds (43_alu R169, R171). -/
def State.setFlagThen (s : State) (x : Nibble) (f : Byte) (g : Byte → Byte) : State :=
  (s.setV vf f).setV x (g ((s.setV vf f).getV x))

theorem exec_shr (x y : Nibble) (s : State) :
    exec (.shr x y) s = .next (s.setFlagThen x (lowBitFlag (s.getV x)) (· >>> 1)) := rfl

theorem exec_shl (x y : Nibble) (s : State) :
    exec (.shl x y) s = .next (s.setFlagThen x (highBitFlag (s.getV x)) (· <<< 1)) := rfl

theorem State.getV_setFlagThen_dest (s : State) {x : Nibble} (f : Byte) (g : Byte → Byte) (hx : x ≠ 0xF) :
    (s.setFlagThen x f g).getV x = g (s.getV x) := by
  rw [State.setFlagThen, State.getV_setV_same, s.getV_setV_ne f (show x ≠ vf from hx)]

theorem State.getV_setFlagThen_vf (s : State) {x : Nibble} (f : Byte) (g : Byte → Byte) (hx : x ≠ 0xF) :
    (s.setFlagThen x f g).getV 0xF = f := by
  rw [State.setFlagThen, State.getV_setV_ne _ _ hx.symm]
  exact s.getV_setV_same vf f

/-- Where X is F, the second write reads the flag. -/
theorem State.getV_setFlagThen_onVf (s : State) (f : Byte) (g : Byte → Byte) :
    (s.setFlagThen 0xF f g).getV 0xF = g f := by
  rw [State.setFlagThen, State.getV_setV_same, vf, State.getV_setV_same]

theorem State.getV_setFlagThen_ne (s : State) {x k : Nibble} (f : Byte) (g : Byte → Byte) (hx : k ≠ x) (hf : k ≠ 0xF) :
    (s.setFlagThen x f g).getV k = s.getV k := by
  rw [State.setFlagThen, State.getV_setV_ne _ _ hx, s.getV_setV_ne f (show k ≠ vf from hf)]

theorem State.setFlagThen_frame (s : State) (x : Nibble) (f : Byte) (g : Byte → Byte) :
    s.setFlagThen x f g = { s with v := (s.setFlagThen x f g).v } := rfl

theorem State.sameMemory_setFlagThen (s : State) (x : Nibble) (f : Byte) (g : Byte → Byte) :
    s.SameMemory (s.setFlagThen x f g) := fun _ => rfl

theorem exec_rnd (x : Nibble) (nn : Byte) (s : State) :
    exec (.rnd x nn) s = .next (s.drawByte.2.setV x (Config.randomByte s.draws &&& nn)) := rfl

theorem lowBitFlag_toNat (b : Byte) : (lowBitFlag b).toNat = b.toNat % 2 := by
  rw [lowBitFlag, BitVec.toNat_and]
  exact Nat.and_one_is_mod _

theorem highBitFlag_toNat (b : Byte) : (highBitFlag b).toNat = b.toNat / 128 := by
  rw [highBitFlag, BitVec.toNat_ushiftRight, Nat.shiftRight_eq_div_pow]

theorem byte_shiftRight_one_toNat (b : Byte) : (b >>> 1).toNat = b.toNat / 2 := by
  rw [BitVec.toNat_ushiftRight, Nat.shiftRight_eq_div_pow, pow_one]

theorem byte_shiftLeft_one_toNat (b : Byte) : (b <<< 1).toNat = 2 * b.toNat % 256 := by
  rw [BitVec.toNat_shiftLeft, Nat.shiftLeft_eq, pow_one, Nat.mul_comm]

/-- Settles O34: one register write, of the OR with V[Y], or with V[X] itself. -/
theorem orUnderEitherSwitch : Obligations.OrUnderEitherSwitch := by
  intro x y s
  refine ⟨_, exec_or x y s, fun hswitch b => ?_, fun hswitch => ?_, fun k hk => s.getV_setV_ne _ hk, s.setV_frame x _,
    s.sameMemory_setV x _⟩
  · rw [State.getV_setV_same, BitVec.getLsbD_or, State.orSource, hswitch, if_neg Bool.false_ne_true]
  · rw [State.getV_setV_same, State.orSource, if_pos hswitch, BitVec.or_self]

/-- Settles O36: the flag, written last, is what VF holds, and VF is the only register written. -/
theorem arithmeticOnVfLeavesFlag : Obligations.ArithmeticOnVfLeavesFlag := by
  intro y s a b
  have hregs (r f : Byte) (k : Nibble) : (s.setResultFlag 0xF r f).getV k = if k = 0xF then f else s.getV k := by
    rw [State.getV_setResultFlag]
    split <;> rfl
  refine ⟨⟨_, exec_addReg 0xF y s, fun k => ?_, s.setResultFlag_frame 0xF _ _, s.sameMemory_setResultFlag 0xF _ _⟩,
    ⟨_, exec_sub 0xF y s, fun k => ?_, s.setResultFlag_frame 0xF _ _, s.sameMemory_setResultFlag 0xF _ _⟩,
    ⟨_, exec_subn 0xF y s, fun k => ?_, s.setResultFlag_frame 0xF _ _, s.sameMemory_setResultFlag 0xF _ _⟩⟩
  · rw [hregs, carryFlag_eq]
  · rw [hregs, notBorrowFlag_eq]
  · rw [hregs, borrowFlag_eq]

/-- Settles O37: bit 0 goes to VF first; where X is F, the half of that bit, which is 0, then goes there. -/
theorem shiftRight : Obligations.ShiftRight := by
  intro x y s
  refine ⟨_, exec_shr x y s, fun hx => ⟨?_, ?_⟩, fun hx => ?_, fun k => s.getV_setFlagThen_ne _ _,
    s.setFlagThen_frame x _ _, s.sameMemory_setFlagThen x _ _⟩
  · rw [s.getV_setFlagThen_dest _ _ hx, byte_shiftRight_one_toNat]
  · rw [s.getV_setFlagThen_vf _ _ hx, lowBitFlag_toNat]
  · subst hx
    refine BitVec.eq_of_toNat_eq ?_
    rw [State.getV_setFlagThen_onVf, byte_shiftRight_one_toNat, lowBitFlag_toNat]
    exact Nat.div_eq_of_lt (Nat.mod_lt _ Nat.two_pos)

/-- Settles O38: bit 7 goes to VF first; where X is F, twice that bit then goes there. -/
theorem shiftLeft : Obligations.ShiftLeft := by
  intro x y s
  refine ⟨_, exec_shl x y s, fun hx => ⟨?_, ?_⟩, fun hx => ?_, fun k => s.getV_setFlagThen_ne _ _,
    s.setFlagThen_frame x _ _, s.sameMemory_setFlagThen x _ _⟩
  · rw [s.getV_setFlagThen_dest _ _ hx, byte_shiftLeft_one_toNat]
  · rw [s.getV_setFlagThen_vf _ _ hx, highBitFlag_toNat]
  · subst hx
    have hbyte : (s.getV 0xF).toNat < 256 := (s.getV 0xF).isLt
    rw [State.getV_setFlagThen_onVf, byte_shiftLeft_one_toNat, highBitFlag_toNat]
    omega

/-- Settles O39: one draw counted and one register write, of a byte under the mask NN. -/
theorem randomIsMasked : Obligations.RandomIsMasked := by
  intro x nn s
  refine ⟨_, exec_rnd x nn s, State.getV_setV_same _ x _, ?_, fun b hb => ?_, fun k hk => State.getV_setV_ne _ _ hk,
    rfl, rfl, fun _ => rfl⟩
  · rw [State.getV_setV_same, BitVec.toNat_and]
    exact Nat.and_le_right
  · rw [State.getV_setV_same, BitVec.getLsbD_and, hb, Bool.and_false]

end Sys2Proof.Machine
end

section

/-! Index arithmetic (44_index_memory R191, R192): FX1E and FX29 are one `State.setIndex` each. -/
namespace Sys2Proof.Machine

theorem exec_addIVx (x : Nibble) (s : State) :
    exec (.addIVx x) s = .next (s.setIndex (s.index + zextByte (s.getV x))) := rfl

theorem exec_ldFVx (x : Nibble) (s : State) : exec (.ldFVx x) s = .next (s.setIndex (glyphAddr (s.getV x))) := rfl

/-- A glyph's address is at most 1275, so the product does not wrap. -/
theorem glyphAddr_toNat (b : Byte) : (glyphAddr b).toNat = b.toNat * 5 := by
  have hb : b.toNat < 256 := b.isLt
  rw [glyphAddr, BitVec.toNat_mul, zextByte_toNat]
  exact Nat.mod_eq_of_lt (show b.toNat * 5 < 65536 by omega)

/-- Settles O41: one write of I by each instruction, of a sum of words and of a product that does not wrap. -/
theorem indexArithmetic : Obligations.IndexArithmetic := by
  intro x s
  refine ⟨⟨_, exec_addIVx x s, ?_, s.setIndex_frame _, s.sameMemory_setIndex _⟩,
    ⟨_, exec_ldFVx x s, glyphAddr_toNat _, s.setIndex_frame _, s.sameMemory_setIndex _⟩⟩
  rw [State.setIndex_index, BitVec.toNat_add, zextByte_toNat]

end Sys2Proof.Machine
end

section

/-! The key wait FX0A (46_timers_keys R221): one register write of the least pressed key, or pc taken back by 2. -/
namespace Sys2Proof.Machine

theorem exec_ldVxK_of_some {s : State} {k : Fin 16} (h : s.leastPressed = some k) (x : Nibble) :
    exec (.ldVxK x) s = .next (s.setV x (BitVec.ofNat 8 k.val)) := by
  simp only [exec, execLdVxK, h]

theorem exec_ldVxK_of_none {s : State} (h : s.leastPressed = none) (x : Nibble) :
    exec (.ldVxK x) s = .next (s.setPc (s.pc - 2)) := by
  simp only [exec, execLdVxK, h]

/-- A key's index, as a byte, is the same number. -/
theorem keyByte_toNat (k : Fin 16) : (BitVec.ofNat 8 k.val).toNat = k.val := by
  rw [BitVec.toNat_ofNat, Nat.mod_eq_of_lt (by omega)]

/-- Settles O52, by whether a least pressed key is found. -/
theorem keyWaitTakesLeastKey : Obligations.KeyWaitTakesLeastKey := by
  refine fun x s => ⟨fun k hpressed hleast => ?_, fun hnone => exec_ldVxK_of_none (s.leastPressed_eq_none.2 hnone) x⟩
  refine ⟨_, exec_ldVxK_of_some ((s.leastPressed_eq_some k).2 ⟨hpressed, hleast⟩) x, ?_,
    fun m hm => s.getV_setV_ne _ hm, s.setV_frame x _, s.sameMemory_setV x _⟩
  rw [State.getV_setV_same, keyByte_toNat]

end Sys2Proof.Machine
end

section

/-! What a step of a running engine does (40_execute_cycle R100 to R106): it raises the fault that is due, with nothing
else changed, or performs the instruction at pc. -/
namespace Sys2Proof.Machine

/-- A fetch that leaves memory. -/
theorem step_of_not_canFetch {s : State} (hrun : s.Running) (hfetch : s.pc.toNat + 1 ≥ 4096) :
    step s = .next (s.takeFault (.fetchOutOfBounds s.pc)) := by
  rw [step_running s hrun, State.fetchDecode_eq, if_pos hfetch]

/-- A fetch of a word that is no instruction's. -/
theorem step_of_unrecognized {s : State} (hrun : s.Running) (hfetch : s.CanFetch)
    (hdecode : decodeWord s.wordAtPc = .unrecognized s.wordAtPc) :
    step s = .next (s.takeFault (.unrecognizedOpcode s.pc s.wordAtPc)) := by
  rw [step_running s hrun, State.fetchDecode_eq, if_neg (Nat.not_le.2 hfetch), hdecode]

/-- The three ways a step of a running engine can go: the fetch fails, the decode fails, or an instruction is
performed. -/
theorem State.Running.cases {s : State} (hrun : s.Running) :
    s.pc.toNat + 1 ≥ 4096 ∨ (s.CanFetch ∧ decodeWord s.wordAtPc = .unrecognized s.wordAtPc) ∨ ∃ i, s.AboutTo i := by
  rcases Nat.lt_or_ge (s.pc.toNat + 1) 4096 with hfetch | hfetch
  · rcases exists_decodeWord_or_unrecognized s.wordAtPc with ⟨i, hi⟩ | hu
    · exact .inr (.inr ⟨i, hrun, hfetch, hi⟩)
    · exact .inr (.inl ⟨hfetch, hu⟩)
  · exact .inl hfetch

theorem State.faultDue_of_not_canFetch {s : State} (hfetch : s.pc.toNat + 1 ≥ 4096) :
    s.faultDue = some (.fetchOutOfBounds s.pc) := if_pos hfetch

theorem State.faultDue_of_unrecognized {s : State} (hfetch : s.CanFetch)
    (hdecode : decodeWord s.wordAtPc = .unrecognized s.wordAtPc) :
    s.faultDue = some (.unrecognizedOpcode s.pc s.wordAtPc) := by
  rw [State.faultDue, if_neg (Nat.not_le.2 hfetch), hdecode]

theorem State.faultDue_of_aboutTo {s : State} {i : Instr} (h : s.AboutTo i) :
    s.faultDue = s.instrFault i s.wordAtPc := by
  obtain ⟨-, hfetch, hdecode⟩ := h
  rw [State.faultDue, if_neg (Nat.not_le.2 hfetch), hdecode]

/-- A running engine whose instruction is performed faults exactly as that instruction is due. -/
theorem step_instrFault {s : State} {i : Instr} (h : s.AboutTo i) :
    (s.instrFault i s.wordAtPc = none ∧ ∃ t, step s = .next t ∧ t.fault = none) ∨
      ∃ r, s.instrFault i s.wordAtPc = some r ∧ step s = .next (s.takeFault r) := by
  have ⟨hrun, _, hdecode⟩ := h
  have hback : (s.setPc (s.pc + 2)).setPc ((s.setPc (s.pc + 2)).pc - 2) = s := by
    simp [State.setPc]
  rw [step_of_aboutTo h]
  rcases exec_cases i (s.setPc (s.pc + 2)) with ⟨t, ht, hfault, hnone⟩ | ⟨r, hraise, hdue⟩
  · rw [hback] at hnone
    exact .inl ⟨hnone _, t, ht, hfault.trans hrun⟩
  · rw [hback, encode_of_decodeWord hdecode] at hdue
    refine .inr ⟨r, hdue, hraise.trans ?_⟩
    rw [State.raise, State.instrAddr, hback]

/-- A step of a running engine answers a next state: one without a fault when none is due, else the state as it was with
the fault that is due. -/
theorem step_faultDue {s : State} (hrun : s.Running) :
    (s.faultDue = none ∧ ∃ t, step s = .next t ∧ t.fault = none) ∨
      ∃ r, s.faultDue = some r ∧ step s = .next (s.takeFault r) := by
  rcases hrun.cases with hfetch | ⟨hfetch, hu⟩ | ⟨i, hi⟩
  · exact .inr ⟨_, State.faultDue_of_not_canFetch hfetch, step_of_not_canFetch hrun hfetch⟩
  · exact .inr ⟨_, State.faultDue_of_unrecognized hfetch hu, step_of_unrecognized hrun hfetch hu⟩
  · rw [State.faultDue_of_aboutTo hi]
    exact step_instrFault hi

/-- The record of the fault that is due holds pc, and the word there unless the fetch fails. -/
theorem State.faultDue_record {s : State} (hrun : s.Running) {r : FaultRecord} (h : s.faultDue = some r) :
    r.instrPc = s.pc ∧ r.opcode = if s.CanFetch then some s.wordAtPc else none := by
  rcases hrun.cases with hfetch | ⟨hfetch, hu⟩ | ⟨i, hi⟩
  · obtain rfl := Option.some.inj ((State.faultDue_of_not_canFetch hfetch).symm.trans h)
    exact ⟨rfl, (if_neg (Nat.not_lt.2 hfetch)).symm⟩
  · obtain rfl := Option.some.inj ((State.faultDue_of_unrecognized hfetch hu).symm.trans h)
    exact ⟨rfl, (if_pos hfetch).symm⟩
  · have ⟨_, hfetch, _⟩ := hi
    rw [if_pos hfetch]
    exact State.instrFault_record ((State.faultDue_of_aboutTo hi).symm.trans h)

/-- Settles O9: the fetch is the first thing a step does. -/
theorem fetchPastMemoryFaults : Obligations.FetchPastMemoryFaults := fun _ => step_of_not_canFetch

/-- Settles O10: an illegal word is one that does not decode. -/
theorem illegalWordFaults : Obligations.IllegalWordFaults := by
  intro s hrun hfetch hillegal
  refine step_of_unrecognized hrun hfetch ((exists_decodeWord_or_unrecognized _).resolve_left fun ⟨i, hi⟩ => ?_)
  exact Bool.false_ne_true (hillegal.symm.trans (wordLegal_of_decodeWord hi))

/-- Settles O12: a step that leaves a fault has raised the one that was due. -/
theorem faultingStepChangesOnlyFault : Obligations.FaultingStepChangesOnlyFault := by
  intro s t r hrun hstep hfault
  rcases step_faultDue hrun with ⟨-, u, hu, hnone⟩ | ⟨q, hdue, hq⟩
  · obtain rfl := Host.Outcome.next.inj (hu.symm.trans hstep)
    exact absurd (hnone.symm.trans hfault) nofun
  · obtain rfl := Host.Outcome.next.inj (hq.symm.trans hstep)
    obtain rfl := Option.some.inj hfault
    exact ⟨rfl, State.faultDue_record hrun hdue⟩

/-- Settles O13, by whether a fault is due. -/
theorem stepFaultsExactlyWhenDue : Obligations.StepFaultsExactlyWhenDue := by
  intro s hrun
  rcases step_faultDue hrun with ⟨hnone, t, ht, hfault⟩ | ⟨r, hdue, hr⟩
  · exact ⟨t, ht, hfault.trans hnone.symm⟩
  · exact ⟨_, hr, hdue.symm⟩

end Sys2Proof.Machine
end

section

/-! A faulted engine (40_execute_cycle R107), the host's view of a step (60_exceptions R248), and an idle engine
(40_execute_cycle R111). -/
namespace Sys2Proof.Machine

theorem step_of_fault {s : State} {r : FaultRecord} (h : s.fault = some r) : step s = .fault (.stopped r) := by
  simp only [step, h]

/-- A step that answers a next state was a running engine's. -/
theorem running_of_step {s t : State} (h : step s = .next t) : s.Running := by
  cases hfault : s.fault with
  | none => exact hfault
  | some r => exact absurd ((step_of_fault hfault).symm.trans h) nofun

theorem hostMove_executeOne_of_fault {s : State} {r : FaultRecord} (h : s.fault = some r) :
    hostMove .executeOne s = (s, .fault r) := by
  simp only [hostMove, State.hostExecute, step_of_fault h]

theorem hostMove_executeOne_of_ok {s t : State} (hstep : step s = .next t) (hfault : t.fault = none) :
    hostMove .executeOne s = (t, .ok) := by
  simp only [hostMove, State.hostExecute, hstep, hfault]

theorem hostMove_executeOne_of_raised {s t : State} {r : FaultRecord} (hstep : step s = .next t)
    (hfault : t.fault = some r) : hostMove .executeOne s = (t, .fault r) := by
  simp only [hostMove, State.hostExecute, hstep, hfault]

/-- Whether or not a fault was raised, the host's call leaves the step's state. -/
theorem hostMove_executeOne_of_next {s t : State} (hstep : step s = .next t) : (hostMove .executeOne s).1 = t := by
  cases hfault : t.fault with
  | none => rw [hostMove_executeOne_of_ok hstep hfault]
  | some r => rw [hostMove_executeOne_of_raised hstep hfault]

/-- The host's call leaves the state as it was or as a step answers it. -/
theorem hostMove_executeOne_cases (s : State) :
    (hostMove .executeOne s).1 = s ∨ step s = .next (hostMove .executeOne s).1 := by
  cases hs : s.fault with
  | some r => exact .inl (by rw [hostMove_executeOne_of_fault hs])
  | none =>
    obtain ⟨t, hstep, -⟩ := stepFaultsExactlyWhenDue s hs
    exact .inr (by rw [hostMove_executeOne_of_next hstep, hstep])

/-- Settles O11: the step stops before its fetch, and the host's call leaves the state. -/
theorem faultedEngineRunsNothing : Obligations.FaultedEngineRunsNothing := fun _ _ hfault =>
  ⟨step_of_fault hfault, hostMove_executeOne_of_fault hfault⟩

/-- Settles O14: the call of a running engine reports on the step's state, that of a faulted one on the state it has. -/
theorem executeOneReportsFault : Obligations.ExecuteOneReportsFault := by
  refine fun s => ⟨fun t hstep => ⟨hostMove_executeOne_of_ok hstep, fun r => hostMove_executeOne_of_raised hstep⟩, ?_⟩
  cases hs : s.fault with
  | some r => simp only [hostMove_executeOne_of_fault hs, hs]
  | none =>
    obtain ⟨t, hstep, -⟩ := stepFaultsExactlyWhenDue s hs
    cases ht : t.fault with
    | none => simp only [hostMove_executeOne_of_ok hstep ht, ht]
    | some r => simp only [hostMove_executeOne_of_raised hstep ht, ht]

/-- The word of a jump to an address below 0x1000: the digit 1 over the address. -/
theorem encode_jp_of_lt {a : Word} (h : a.toNat < 4096) : encode (.jp (a.setWidth 12)) = 0x1000 ||| a ∧
    addrOf (a.setWidth 12) = a := by
  have haddr : addrOf (a.setWidth 12) = a := BitVec.eq_of_toNat_eq <| by
    rw [addrOf_toNat, BitVec.toNat_setWidth, Nat.mod_eq_of_lt h]
  exact ⟨congrArg (0x1000 ||| ·) haddr, haddr⟩

/-- Settles O16: the word at pc is a jump to pc, and the jump's step ends at pc again. -/
theorem idleStepChangesNothing : Obligations.IdleStepChangesNothing := by
  rintro s ⟨hrun, hpc, hword⟩
  obtain ⟨hjump, htarget⟩ := encode_jp_of_lt (a := s.pc) (by omega)
  have habout : s.AboutTo (.jp (s.pc.setWidth 12)) :=
    ⟨hrun, show s.pc.toNat + 1 < 4096 by omega, by rw [hword, ← hjump, decodeWord_encode]⟩
  rw [step_of_aboutTo habout, exec_jp, htarget]
  rfl

end Sys2Proof.Machine
end

section

/-! The host's other operations (60_exceptions R248, R249): construct and reset, load and set_key within their bounds
and past them, and display. -/
namespace Sys2Proof.Machine

theorem hostMove_reset (s : State) :
    hostMove .reset s = ({ State.construct s.params with draws := s.draws }, .ok) := rfl

theorem hostMove_construct (s : State) :
    hostMove .construct s = ({ State.construct s.params with draws := s.draws }, .ok) := rfl

theorem hostMove_load_of_le {rom : List Byte} (h : rom.length ≤ 3584) (s : State) :
    hostMove (.load rom) s = (s.storeBytes 0x200 rom, .ok) := if_pos h

theorem hostMove_load_of_gt {rom : List Byte} (h : rom.length > 3584) (s : State) :
    hostMove (.load rom) s = (s, .error .loadTooLarge) := if_neg (Nat.not_le.2 h)

theorem hostMove_setKey_of_ge {k : Nat} (hk : k ≥ 16) (p : Bool) (s : State) :
    hostMove (.setKey k p) s = (s, .error .keyIndexInvalid) := dif_neg (Nat.not_lt.2 hk)

theorem hostMove_display (s : State) : hostMove .display s = (s, .pixels s.fb) := rfl

/-- Settles O57: a ROM that fits ends inside memory. -/
theorem loadCopiesRom : Obligations.LoadCopiesRom := by
  refine fun rom s => ⟨fun hfits => ?_, fun hlarge => hostMove_load_of_gt hlarge s⟩
  exact ⟨_, hostMove_load_of_le hfits s, fun k hk => s.readByte_storeBytes_inside 0x200 rom k hk (by omega),
    s.readByte_storeBytes_outside 0x200 rom, s.storeBytes_eq _ _⟩

/-- Settles O59: a pixel on the screen is at its own index. -/
theorem badKeyAndDisplayChangeNothing : Obligations.BadKeyAndDisplayChangeNothing := by
  refine fun k p s => ⟨fun hk => hostMove_setKey_of_ge hk p s, hostMove_display s, fun x hx y hy h => ?_⟩
  have hindex : (pixelIndex x y).val = x + 64 * y := by
    simp only [pixelIndex, Nat.mod_eq_of_lt hx, Nat.mod_eq_of_lt hy]
  simp only [State.pixel, hindex]

end Sys2Proof.Machine
end

section

/-! The memory instructions within memory (44_index_memory R193 to R195): FX33 and FX55 store a list of bytes from I up,
and FX65 loads registers from there. -/
namespace Sys2Proof.Machine

theorem exec_ldVxMem_of_inRange {x : Nibble} {s : State} (h : s.index.toNat + x.toNat + 1 ≤ 4096) :
    exec (.ldVxMem x) s = .next (s.loadRegs s.index.toNat (x.toNat + 1)) := if_pos h

/-- The three decimal digits of a byte: each at most 9, and together the byte. -/
theorem decimal_digits_sum {n a b c : Nat} (hn : n < 256) (ha : a = n / 10 ^ 2 % 10) (hb : b = n / 10 ^ 1 % 10)
    (hc : c = n / 10 ^ 0 % 10) : a ≤ 9 ∧ b ≤ 9 ∧ c ≤ 9 ∧ 100 * a + 10 * b + c = n := by
  omega

/-- Settles O42: the stored bytes are the decimal digits of V[X], and storing three bytes touches no other byte. -/
theorem bcdStoresDigits : Obligations.BcdStoresDigits := by
  intro x s hrange
  have hexec := exec_ldBVx_of_inRange (x := x) hrange
  have hdigit := readByte_toNat_of_exec_ldBVx hrange hexec
  obtain ⟨ha, hb, hc, hsum⟩ := decimal_digits_sum (s.getV x).isLt (hdigit 0) (hdigit 1) (hdigit 2)
  exact ⟨_, hexec, ha, hb, hc, hsum, s.readByte_storeBytes_outside s.index.toNat (bcdDigits (s.getV x)),
    s.storeBytes_eq _ _⟩

/-- Settles O43: byte k stored is V[k], and storing X + 1 bytes touches no other byte. -/
theorem storeRegisters : Obligations.StoreRegisters := by
  intro x s hrange
  have hexec := exec_ldMemVx_of_inRange hrange
  refine ⟨_, hexec, fun k hk => readByte_of_exec_ldMemVx hrange hexec hk, fun a ha => ?_, s.storeBytes_eq _ _⟩
  rw [← s.regsUpTo_length x] at ha
  exact s.readByte_storeBytes_outside _ _ a ha

/-- Settles O44: the first X + 1 registers are loaded, and loading touches the registers alone. -/
theorem loadRegisters : Obligations.LoadRegisters := by
  intro x s hrange
  refine ⟨_, exec_ldVxMem_of_inRange hrange, fun k => ?_, s.loadRegs_eq _ _, s.readByte_loadRegs _ _⟩
  rw [State.getV_loadRegs]
  exact if_congr Nat.lt_succ_iff rfl rfl

/-- Settles O46: I is as it was when the registers were stored, so the load reads the bytes stored. -/
theorem loadUndoesStore : Obligations.LoadUndoesStore := by
  intro x s t v hrange hstore
  have hindex : t.index = s.index := by
    rw [← Host.Outcome.next.inj ((exec_ldMemVx_of_inRange hrange).symm.trans hstore), State.storeBytes_index]
  obtain ⟨u, hload, hregs, -⟩ := loadRegisters x { t with v := v } (show t.index.toNat + _ + 1 ≤ _ by rwa [hindex])
  refine ⟨u, hload, fun k hk => ?_⟩
  calc u.getV k = t.readByte (t.index.toNat + k.toNat) := (hregs k).trans (if_pos hk)
    _ = t.readByte (s.index.toNat + k.toNat) := by rw [hindex]
    _ = s.getV k := readByte_of_exec_ldMemVx hrange hstore hk

end Sys2Proof.Machine
end

section

/-! What an instruction can do to the state, said once over all instructions; the frame and the invariant follow from
it. -/
namespace Sys2Proof.Machine

/-- The state DXYN leaves (45_display R211). -/
def State.drwResult (s : State) (x y n : Nibble) : State :=
  (s.setFb (s.drawRows s.index.toNat (s.getV x).toNat (s.getV y).toNat n.toNat).fb).setV vf
    (collisionFlag (s.drawRows s.index.toNat (s.getV x).toNat (s.getV y).toNat n.toNat).collide)

theorem exec_drw_of_inRange {x y n : Nibble} {s : State} (h : s.index.toNat + n.toNat ≤ 4096) :
    exec (.drw x y n) s = .next (s.drwResult x y n) := if_pos h

theorem addrOf_le (nnn : Addr12) : (addrOf nnn).toNat ≤ 0x10FE := by
  have hn : nnn.toNat < 4096 := nnn.isLt
  rw [addrOf_toNat]
  omega

theorem zextByte_add_addrOf_le (b : Byte) (nnn : Addr12) : (zextByte b + addrOf nnn).toNat ≤ 0x10FE := by
  have hb : b.toNat < 256 := b.isLt
  have hn : nnn.toNat < 4096 := nnn.isLt
  rw [zextByte_add_addrOf_toNat]
  omega

/-- Whether an instruction draws a random byte: CXNN alone does (60_exceptions R255). -/
def drawsByte : Instr → Bool
  | .rnd _ _ => true
  | _ => false

theorem ne_rnd_of_drawsByte {i : Instr} (h : drawsByte i = false) (x : Nibble) (nn : Byte) : i ≠ .rnd x nn := by
  rintro rfl
  cases h

/-- `Effect i s t`: performing `i` may take `s`, whose pc has advanced, to `t`. -/
inductive Effect (i : Instr) (s : State) : State → Prop
  /-- A fault: the advance of pc undone, and the record set. -/
  | raise (hi : drawsByte i = false) (r : FaultRecord) : Effect i s { s with pc := s.pc - 2, fault := some r }
  /-- pc alone: kept, a skip, a wait, or a jump, whose largest target is that of BNNN. -/
  | jump (hi : drawsByte i = false) {w : Word}
      (hw : w = s.pc ∨ w = s.pc + 2 ∨ w = s.pc - 2 ∨ w.toNat ≤ 0x10FE) : Effect i s (s.setPc w)
  /-- Registers alone, those the instruction's pseudocode writes. -/
  | registers (hi : drawsByte i = false) {v : Vector Byte 16}
      (hv : ∀ k, writesV i k = false → ({ s with v := v } : State).getV k = s.getV k) : Effect i s { s with v := v }
  | random (x : Nibble) (nn b : Byte) (hi : i = .rnd x nn) : Effect i s (s.drawByte.2.setV x b)
  | index (hi : (∃ n, i = .ldI n) ∨ (∃ x, i = .addIVx x) ∨ ∃ x, i = .ldFVx x) (w : Word) : Effect i s (s.setIndex w)
  | delay (x : Nibble) (b : Byte) (hi : i = .ldDtVx x) : Effect i s (s.setDt b)
  | sound (x : Nibble) (b : Byte) (hi : i = .ldStVx x) : Effect i s (s.setSt b)
  | clear (fb : Framebuffer) (hi : i = .cls) : Effect i s (s.setFb fb)
  | draw (x y n : Nibble) (fb : Framebuffer) (b : Byte) (hi : i = .drw x y n) : Effect i s ((s.setFb fb).setV vf b)
  | store (bs : List Byte) (hi : (∃ x, i = .ldBVx x) ∨ ∃ x, i = .ldMemVx x) :
      Effect i s (s.storeBytes s.index.toNat bs)
  | call (nnn : Addr12) (h : s.sp.val < 16) (hi : i = .call nnn) :
      Effect i s { s with
        stack := s.stack.set s.sp.val s.pc h, sp := ⟨s.sp.val + 1, Nat.succ_lt_succ h⟩, pc := addrOf nnn }
  | ret (h : 0 < s.sp.val) (hi : i = .ret) :
      Effect i s { s with sp := ⟨s.sp.val - 1, by omega⟩, pc := s.stack[s.sp.val - 1]'(by omega) }

/-- A register the instruction does not write is not one that it writes. -/
theorem ne_of_writesV {i : Instr} {x k : Nibble} (hx : writesV i x = true) (hk : writesV i k = false) : k ≠ x := by
  rintro rfl
  exact Bool.false_ne_true (hk.symm.trans hx)

/-- One register write. -/
theorem Effect.setV {i : Instr} (s : State) {x : Nibble} (b : Byte) (hi : drawsByte i = false)
    (hx : writesV i x = true) : Effect i s (s.setV x b) :=
  .registers hi fun _ hk => s.getV_setV_ne b (ne_of_writesV hx hk)

/-- Two register writes. -/
theorem Effect.setV_setV {i : Instr} (s : State) {x y : Nibble} (b c : Byte) (hi : drawsByte i = false)
    (hx : writesV i x = true) (hy : writesV i y = true) : Effect i s ((s.setV x b).setV y c) :=
  .registers hi fun _ hk =>
    ((s.setV x b).getV_setV_ne c (ne_of_writesV hy hk)).trans (s.getV_setV_ne b (ne_of_writesV hx hk))

theorem Effect.skipIf {i : Instr} (s : State) (c : Bool) (hi : drawsByte i = false) :
    Effect i s (s.skipIf c) := by
  rw [s.skipIf_eq]
  cases c
  · exact .jump hi (.inl rfl)
  · exact .jump hi (.inr (.inl rfl))

theorem not_of_ite_eq_none {p : Prop} [Decidable p] {r : FaultRecord} (h : (if p then some r else none) = none) :
    ¬ p := fun hp => nomatch (if_pos hp).symm.trans h

/-- The range of a memory instruction that is due no fault lies inside memory. -/
theorem State.index_add_le_of_no_fault (s : State) {i : Instr} {n : Nat} {w : Word} (hlen : accessLength i = some n)
    (h : s.instrFault i w = none) : s.index.toNat + n ≤ 4096 :=
  Nat.not_lt.1 (not_of_ite_eq_none ((s.instrFault_of_accessLength hlen w).symm.trans h))

/-- Performing an instruction that is due no fault. -/
theorem exec_effect_of_no_fault {i : Instr} {s : State}
    (hnone : ∀ w, (s.setPc (s.pc - 2)).instrFault i w = none) : ∃ t, exec i s = .next t ∧ Effect i s t := by
  have hrange (n : Nat) (hlen : accessLength i = some n) : s.index.toNat + n ≤ 4096 :=
    (s.setPc (s.pc - 2)).index_add_le_of_no_fault hlen (hnone 0)
  cases i with
  | nop => exact ⟨_, exec_nop s, .jump rfl (.inl rfl)⟩
  | jp nnn => exact ⟨_, exec_jp nnn s, .jump rfl (.inr (.inr (.inr (addrOf_le nnn))))⟩
  | jpV0 nnn => exact ⟨_, exec_jpV0 nnn s, .jump rfl (.inr (.inr (.inr (zextByte_add_addrOf_le _ nnn))))⟩
  | call nnn =>
    have hroom : s.sp.val ≠ 16 := not_of_ite_eq_none (hnone 0)
    exact ⟨_, exec_call_of_lt (by omega) nnn, .call nnn (by omega) rfl⟩
  | ret =>
    have hpushed : s.sp.val ≠ 0 := not_of_ite_eq_none (hnone 0)
    exact ⟨_, exec_ret_of_pos (by omega), .ret (by omega) rfl⟩
  | seImm | sneImm | seReg | sneReg => exact ⟨_, rfl, .skipIf s _ rfl⟩
  | skp x =>
    have hindex : ¬ (s.getV x).toNat ≥ 16 := not_of_ite_eq_none (hnone 0)
    exact ⟨_, exec_skp_of_lt (Nat.not_le.1 hindex), .skipIf s _ rfl⟩
  | sknp x =>
    have hindex : ¬ (s.getV x).toNat ≥ 16 := not_of_ite_eq_none (hnone 0)
    exact ⟨_, exec_sknp_of_lt (Nat.not_le.1 hindex), .skipIf s _ rfl⟩
  | ldImm x | addImm x | ldReg x | or x | and x | xor x | ldVxDt x =>
    exact ⟨_, rfl, .setV s _ rfl (by simp [writesV])⟩
  | addReg x | sub x | subn x | shr x | shl x =>
    exact ⟨_, rfl, .setV_setV s _ _ rfl (by simp [writesV, vf]) (by simp [writesV, vf])⟩
  | rnd x nn => exact ⟨_, exec_rnd x nn s, .random x nn _ rfl⟩
  | ldI nnn => exact ⟨_, exec_ldI nnn s, .index (.inl ⟨nnn, rfl⟩) _⟩
  | addIVx x => exact ⟨_, exec_addIVx x s, .index (.inr (.inl ⟨x, rfl⟩)) _⟩
  | ldFVx x => exact ⟨_, exec_ldFVx x s, .index (.inr (.inr ⟨x, rfl⟩)) _⟩
  | ldDtVx x => exact ⟨_, exec_ldDtVx x s, .delay x _ rfl⟩
  | ldStVx x => exact ⟨_, exec_ldStVx x s, .sound x _ rfl⟩
  | cls => exact ⟨_, exec_cls s, .clear _ rfl⟩
  | drw x y n => exact ⟨_, exec_drw_of_inRange (hrange _ rfl), .draw x y n _ _ rfl⟩
  | ldBVx x => exact ⟨_, exec_ldBVx_of_inRange (hrange _ rfl), .store _ (.inl ⟨x, rfl⟩)⟩
  | ldMemVx x => exact ⟨_, exec_ldMemVx_of_inRange (hrange _ rfl), .store _ (.inr ⟨x, rfl⟩)⟩
  | ldVxMem x =>
    refine ⟨_, exec_ldVxMem_of_inRange (hrange _ rfl), ?_⟩
    have hregs := s.getV_loadRegs s.index.toNat (x.toNat + 1)
    rw [s.loadRegs_eq] at hregs ⊢
    refine .registers rfl fun k hk => (hregs k).trans (if_neg fun hle => ?_)
    exact of_decide_eq_false hk (Nat.lt_succ_iff.1 hle)
  | ldVxK x =>
    cases hkey : s.leastPressed with
    | none => exact ⟨_, exec_ldVxK_of_none hkey x, .jump rfl (.inr (.inr (.inl rfl)))⟩
    | some k => exact ⟨_, exec_ldVxK_of_some hkey x, .setV s _ rfl (by simp [writesV])⟩

/-- Performing an instruction answers a next state, and has one of the effects above. -/
theorem exec_effect {i : Instr} {s t : State} (h : exec i s = .next t) : Effect i s t := by
  rcases exec_cases i s with ⟨-, -, -, hnone⟩ | ⟨r, hraise, hdue⟩
  · obtain ⟨u, hu, heffect⟩ := exec_effect_of_no_fault hnone
    exact Host.Outcome.next.inj (hu.symm.trans h) ▸ heffect
  · rw [← Host.Outcome.next.inj (hraise.symm.trans h)]
    refine .raise ?_ r
    cases i
    case rnd => cases hdue
    all_goals rfl

/-- All a step that answers a next state can do: take a fault, or advance pc and have an instruction's effect. -/
theorem step_effect {s t : State} (h : step s = .next t) :
    (∃ r, t = s.takeFault r) ∨ ∃ i, s.AboutTo i ∧ Effect i (s.setPc (s.pc + 2)) t := by
  have hrun := running_of_step h
  rcases hrun.cases with hfetch | ⟨hfetch, hu⟩ | ⟨i, hi⟩
  · exact .inl ⟨_, Host.Outcome.next.inj (h.symm.trans (step_of_not_canFetch hrun hfetch))⟩
  · exact .inl ⟨_, Host.Outcome.next.inj (h.symm.trans (step_of_unrecognized hrun hfetch hu))⟩
  · exact .inr ⟨i, hi, exec_effect ((step_of_aboutTo hi).symm.trans h)⟩

/-! ### The frame, component by component -/

section

variable {i : Instr} {s t : State} (h : Effect i s t)
include h

theorem Effect.key_eq : t.key = s.key := by
  cases h <;> simp

theorem Effect.params_eq : t.params = s.params := by
  cases h <;> simp

theorem Effect.dt_eq_or : t.dt = s.dt ∨ ∃ x, i = .ldDtVx x := by
  cases h with
  | delay x b hi => exact .inr ⟨x, hi⟩
  | _ => left; simp

theorem Effect.st_eq_or : t.st = s.st ∨ ∃ x, i = .ldStVx x := by
  cases h with
  | sound x b hi => exact .inr ⟨x, hi⟩
  | _ => left; simp

theorem Effect.index_eq_or :
    t.index = s.index ∨ (∃ n, i = .ldI n) ∨ (∃ x, i = .addIVx x) ∨ ∃ x, i = .ldFVx x := by
  cases h with
  | index hi w => exact .inr hi
  | _ => left; simp

theorem Effect.stack_eq_or : t.sp = s.sp ∧ t.stack = s.stack ∨ (∃ n, i = .call n) ∨ i = .ret := by
  cases h with
  | call nnn _ hi => exact .inr (.inl ⟨nnn, hi⟩)
  | ret _ hi => exact .inr (.inr hi)
  | _ => left; simp

theorem Effect.fb_eq_or : t.fb = s.fb ∨ i = .cls ∨ ∃ x y n, i = .drw x y n := by
  cases h with
  | clear _ hi => exact .inr (.inl hi)
  | draw x y n _ _ hi => exact .inr (.inr ⟨x, y, n, hi⟩)
  | _ => left; simp

theorem Effect.mem_eq_or : t.mem = s.mem ∨ (∃ x, i = .ldBVx x) ∨ ∃ x, i = .ldMemVx x := by
  cases h with
  | store bs hi => exact .inr hi
  | _ => left; simp

theorem Effect.draws_eq_or :
    t.draws = s.draws ∧ (∀ x nn, i ≠ .rnd x nn) ∨ t.draws = s.draws + 1 ∧ ∃ x nn, i = .rnd x nn := by
  cases h with
  | random x nn b hi => exact .inr ⟨rfl, x, nn, hi⟩
  | raise hi | jump hi | registers hi => exact .inl ⟨rfl, ne_rnd_of_drawsByte hi⟩
  | store bs hi => exact .inl ⟨s.storeBytes_draws _ bs, by rcases hi with ⟨_, rfl⟩ | ⟨_, rfl⟩ <;> simp⟩
  | index hi w => exact .inl ⟨rfl, by rcases hi with ⟨_, rfl⟩ | ⟨_, rfl⟩ | ⟨_, rfl⟩ <;> simp⟩
  | delay x b hi | sound x b hi | clear _ hi | draw _ _ _ _ _ hi | call _ _ hi | ret _ hi =>
    exact .inl ⟨rfl, by simp [hi]⟩

theorem Effect.getV_eq (k : Nibble) (hk : writesV i k = false) : t.getV k = s.getV k := by
  cases h with
  | registers _ hv => exact hv k hk
  | random x nn b hi =>
    subst hi
    exact State.getV_setV_ne _ b (ne_of_writesV (by simp [writesV]) hk)
  | draw x y n fb b hi =>
    subst hi
    exact State.getV_setV_ne _ b (ne_of_writesV (by simp [writesV, vf]) hk)
  | _ => exact State.getV_congr (by simp) k

end

/-- Settles O15, component by component; the advance of pc before the instruction is in no component named here. -/
theorem stepFrameByInstruction : Obligations.StepFrameByInstruction := by
  intro s t i habout hstep
  have h := exec_effect ((step_of_aboutTo habout).symm.trans hstep)
  refine ⟨h.key_eq, h.params_eq, h.dt_eq_or, h.st_eq_or, h.index_eq_or, h.stack_eq_or, h.fb_eq_or, ?_, h.draws_eq_or,
    h.getV_eq⟩
  exact h.mem_eq_or.imp_left fun hmem => State.readByte_congr hmem h.params_eq

end Sys2Proof.Machine
end

section

/-! The invariant (10_state R25, 41_control_flow R121): it holds after construct, each effect of an instruction keeps
it, and so does every operation of the host. -/
namespace Sys2Proof.Machine

theorem Effect.mem_wf {i : Instr} {s t : State} (h : Effect i s t) (hwf : Memory.wf s.params.font s.mem) :
    Memory.wf t.params.font t.mem := by
  rw [h.params_eq]
  cases h with
  | store bs => exact s.storeBytes_wf _ bs hwf
  | _ => simpa using hwf

/-- A jump keeps the bound on pc by its target, a return by the bound on the entries. -/
theorem Effect.pc_le {i : Instr} {s t : State} (h : Effect i s t) (hlow : 2 ≤ s.pc.toNat) (hpc : s.pc.toNat ≤ 0x1000)
    (hstack : ∀ k : Fin 16, s.stack[k.val].toNat ≤ 0x1000) : t.pc.toNat ≤ 0x10FE := by
  cases h with
  | raise =>
    show (s.pc - 2).toNat ≤ 0x10FE
    bv_omega
  | jump _ hw =>
    rw [State.setPc_pc]
    rcases hw with rfl | rfl | rfl | hw
    · omega
    · bv_omega
    · bv_omega
    · exact hw
  | call nnn => exact addrOf_le nnn
  | ret hsp => exact (hstack ⟨s.sp.val - 1, by omega⟩).trans (by decide)
  | _ =>
    refine Nat.le_trans ?_ (hpc.trans (by decide))
    simp

/-- A call keeps the bound on the entries by the bound on the address it pushes. -/
theorem Effect.stack_le {i : Instr} {s t : State} (h : Effect i s t) (hpc : s.pc.toNat ≤ 0x1000)
    (hstack : ∀ k : Fin 16, s.stack[k.val].toNat ≤ 0x1000) (k : Fin 16) : t.stack[k.val].toNat ≤ 0x1000 := by
  cases h with
  | call nnn =>
    simp only [Vector.getElem_set]
    split
    · exact hpc
    · exact hstack k
  | _ => simpa using hstack k

/-- Taking a fault touches nothing the invariant speaks of. -/
theorem State.Inv.takeFault {s : State} (h : s.Inv) (r : FaultRecord) : (s.takeFault r).Inv := h

theorem step_keeps_inv {s t : State} (h : s.Inv) (hstep : step s = .next t) : t.Inv := by
  rcases step_effect hstep with ⟨r, rfl⟩ | ⟨i, ⟨-, hfetch, -⟩, heffect⟩
  · exact h.takeFault r
  · obtain ⟨hwf, -, hstack⟩ := h
    have hnext : (s.setPc (s.pc + 2)).pc.toNat = s.pc.toNat + 2 := State.pc_add_two_toNat hfetch
    have hpc : (s.setPc (s.pc + 2)).pc.toNat ≤ 0x1000 := by simp only [State.CanFetch] at hfetch; omega
    exact ⟨heffect.mem_wf hwf, heffect.pc_le (by omega) hpc hstack, heffect.stack_le hpc hstack⟩

/-- Settles O17, by what a step can do. -/
theorem stepKeepsInvariant : Obligations.StepKeepsInvariant := fun _ _ => step_keeps_inv

theorem State.construct_inv (p : Config.Params) : (State.construct p).Inv :=
  ⟨Memory.nil_wf p.font, show (0x200 : Word).toNat ≤ 0x10FE by decide, fun k => by simp [State.construct]⟩

/-- Settles O18: reset is construction with the default parameters. -/
theorem resetHasInvariant : Obligations.ResetHasInvariant := ⟨State.construct_inv _, State.construct_inv⟩

/-- Storing bytes keeps the invariant, wherever they are stored. -/
theorem State.Inv.storeBytes {s : State} (h : s.Inv) (a : Nat) (bs : List Byte) : (s.storeBytes a bs).Inv := by
  obtain ⟨hwf, hpc, hstack⟩ := h
  exact ⟨by simpa using s.storeBytes_wf a bs hwf, by simpa using hpc, by simpa using hstack⟩

/-- A host operation that is not a step touches pc and the stack only by constructing, and memory only by constructing
or storing bytes. -/
theorem hostMove_keeps_inv (m : Move) {s : State} (h : s.Inv) : (hostMove m s).1.Inv := by
  cases m with
  | construct | reset => exact State.construct_inv s.params
  | load rom =>
    rcases Nat.lt_or_ge 3584 rom.length with hlen | hlen
    · rw [hostMove_load_of_gt hlen]; exact h
    · rw [hostMove_load_of_le hlen]; exact h.storeBytes 0x200 rom
  | setKey k p =>
    rcases Nat.lt_or_ge k 16 with hk | hk
    · rw [hostMove_setKey_of_lt hk]; exact h
    · rw [hostMove_setKey_of_ge hk]; exact h
  | executeOne =>
    rcases hostMove_executeOne_cases s with hsame | hstep
    · rw [hsame]; exact h
    · exact step_keeps_inv h hstep
  | advanceTimers | display => exact h

theorem hostRun_keeps_inv (ms : List Move) {s : State} (h : s.Inv) : (hostRun ms s).Inv := by
  induction ms generalizing s with
  | nil => exact h
  | cons m ms ih => exact ih (hostMove_keeps_inv m h)

/-- Settles O19: every point of an infinite run is the end of a finite one. -/
theorem hostRunKeepsInvariant : Obligations.HostRunKeepsInvariant := by
  refine fun s h => ⟨fun ms => hostRun_keeps_inv ms h, fun ms n => ?_⟩
  rw [hostTrace_eq_hostRun]
  exact hostRun_keeps_inv _ h

end Sys2Proof.Machine
end

section

/-! Drawing (45_display R211 to R214): DXYN inverts the pixels its sprite covers and notes whether one of them was lit,
so drawing the same sprite again inverts the same pixels back. -/
namespace Sys2Proof.Machine

/-- The sprite DXYN draws from a state, on pixel (px, py): N rows of memory from I up, at (V[X], V[Y]). -/
def State.drwCovers (s : State) (x y n : Nibble) (px py : Nat) : Bool :=
  s.spriteCovers s.index.toNat (s.getV x).toNat (s.getV y).toNat n.toNat px py

theorem nibble_lt_32 (n : Nibble) : n.toNat < 32 := n.isLt.trans (by decide)

theorem State.drwResult_pixel (s : State) (x y n : Nibble) (px py : Nat) :
    (s.drwResult x y n).pixel px py = (s.pixel px py ^^ s.drwCovers x y n px py) :=
  s.drawRows_fb _ _ _ _ (nibble_lt_32 n).le px py

theorem collisionFlag_eq_one_or_zero (c : Bool) : collisionFlag c = 1 ∨ collisionFlag c = 0 := by
  cases c
  · exact .inr rfl
  · exact .inl rfl

theorem collisionFlag_eq_one (c : Bool) : collisionFlag c = 1 ↔ c = true := by
  cases c <;> decide

theorem State.drwResult_vf (s : State) (x y n : Nibble) : (s.drwResult x y n).getV 0xF =
    collisionFlag (s.drawRows s.index.toNat (s.getV x).toNat (s.getV y).toNat n.toNat).collide :=
  State.getV_setV_same _ vf _

/-- VF is 1 exactly when a lit pixel was covered. -/
theorem State.drwResult_vf_eq_one (s : State) (x y n : Nibble) : (s.drwResult x y n).getV 0xF = 1 ↔
    ∃ px < 64, ∃ py < 32, s.pixel px py = true ∧ s.drwCovers x y n px py = true := by
  rw [State.drwResult_vf, collisionFlag_eq_one]
  exact s.drawRows_collide _ _ _ _ (nibble_lt_32 n).le

theorem State.drwResult_vf_eq_one_or_zero (s : State) (x y n : Nibble) :
    (s.drwResult x y n).getV 0xF = 1 ∨ (s.drwResult x y n).getV 0xF = 0 := by
  rw [State.drwResult_vf]
  exact collisionFlag_eq_one_or_zero _

/-- VF is 0 where every covered pixel was unlit. -/
theorem State.drwResult_vf_eq_zero (s : State) (x y n : Nibble)
    (h : ∀ px py, s.drwCovers x y n px py = true → s.pixel px py = false) : (s.drwResult x y n).getV 0xF = 0 := by
  refine (s.drwResult_vf_eq_one_or_zero x y n).resolve_left fun hone => ?_
  obtain ⟨px, -, py, -, hlit, hcovered⟩ := (s.drwResult_vf_eq_one x y n).1 hone
  exact Bool.false_ne_true ((h px py hcovered).symm.trans hlit)

/-- Settles O49: a covered pixel that was lit is one that the inversion turns off. -/
theorem drawInvertsSprite : Obligations.DrawInvertsSprite := by
  intro x y n s hrange
  refine ⟨_, exec_drw_of_inRange hrange, s.drwResult_pixel x y n, s.drwResult_vf_eq_one_or_zero x y n, ?_,
    fun k hk => State.getV_setV_ne _ _ hk, rfl, fun _ => rfl⟩
  have hoff (px py : Nat) : (s.pixel px py = true ∧ (s.drwResult x y n).pixel px py = false) ↔
      (s.pixel px py = true ∧ s.drwCovers x y n px py = true) := by
    rw [State.drwResult_pixel]
    cases s.pixel px py <;> cases s.drwCovers x y n px py <;> decide
  simp only [s.drwResult_vf_eq_one x y n, hoff]

/-- Framebuffers with the same pixels are equal: every index is the index of a pixel. -/
theorem fb_eq_of_pixel_eq {s t : State} (h : ∀ px py, t.pixel px py = s.pixel px py) : t.fb = s.fb := by
  refine Vector.ext fun k hk => ?_
  have hindex : (pixelIndex (k % 64) (k / 64)).val = k := by simp only [pixelIndex]; omega
  have hpixel := h (k % 64) (k / 64)
  simpa only [State.pixel, hindex] using hpixel

theorem byte_zero_getLsbD (k : Nat) : (0 : Byte).getLsbD k = false := BitVec.getLsbD_zero

/-- A byte that is not 0 has a set bit, at some column of the row it stands for. -/
theorem exists_getLsbD_of_ne_zero {b : Byte} (h : b ≠ 0) : ∃ c < 8, b.getLsbD (7 - c) = true := by
  by_contra hnone
  refine h (BitVec.eq_of_getLsbD_eq fun k hk => ?_)
  have hbit : ¬ b.getLsbD k = true := fun hset => hnone ⟨7 - k, by omega, by rwa [show 7 - (7 - k) = k by omega]⟩
  rw [Bool.eq_false_iff.2 hbit, byte_zero_getLsbD]

theorem exists_columnOffset_eq (x0 : Nat) {c : Nat} (hc : c < 64) : ∃ px < 64, columnOffset px x0 = c :=
  ⟨(x0 + c) % 64, Nat.mod_lt _ (by decide), (columnOffset_eq_iff _ _ _ hc).2 (Nat.mod_mod _ _).symm⟩

theorem exists_rowOffset_eq (y0 : Nat) {r : Nat} (hr : r < 32) : ∃ py < 32, rowOffset py y0 = r :=
  ⟨(y0 + r) % 32, Nat.mod_lt _ (by decide), (rowOffset_eq_iff _ _ _ hr).2 (Nat.mod_mod _ _).symm⟩

/-- A row with a set bit covers some pixel of the screen. -/
theorem State.exists_drwCovers (s : State) (x y n : Nibble) {r : Nat} (hr : r < n.toNat)
    (hbyte : s.readByte (s.index.toNat + r) ≠ 0) : ∃ px < 64, ∃ py < 32, s.drwCovers x y n px py = true := by
  obtain ⟨c, hc, hbit⟩ := exists_getLsbD_of_ne_zero hbyte
  have hn := nibble_lt_32 n
  obtain ⟨px, hx, hcol⟩ := exists_columnOffset_eq (s.getV x).toNat (c := c) (by omega)
  obtain ⟨py, hy, hrow⟩ := exists_rowOffset_eq (s.getV y).toNat (r := r) (by omega)
  refine ⟨px, hx, py, hy, ?_⟩
  rw [State.drwCovers, State.spriteCovers_eq, hcol, hrow, hbit, decide_eq_true hc, decide_eq_true hr]
  rfl

/-- A sprite without a set bit covers nothing. -/
theorem State.drwCovers_of_blank (s : State) (x y n : Nibble)
    (h : ∀ r < n.toNat, s.readByte (s.index.toNat + r) = 0) (px py : Nat) : s.drwCovers x y n px py = false := by
  rw [State.drwCovers, State.spriteCovers_eq]
  by_cases hrow : rowOffset py (s.getV y).toNat < n.toNat
  · rw [h _ hrow, byte_zero_getLsbD, Bool.and_false]
  · simp [hrow]

/-- Settles O50: the second draw's sprite is the first's, so it inverts the same pixels back, and finds lit exactly what
the first one lit. -/
theorem drawTwiceRestores : Obligations.DrawTwiceRestores := by
  intro x y n s t hrange hdraw
  obtain rfl := Host.Outcome.next.inj ((exec_drw_of_inRange hrange).symm.trans hdraw)
  have hsame (px py : Nat) :
      ({ s.drwResult x y n with v := s.v } : State).drwCovers x y n px py = s.drwCovers x y n px py := rfl
  have hfirst (px py : Nat) : ({ s.drwResult x y n with v := s.v } : State).pixel px py =
      (s.pixel px py ^^ s.drwCovers x y n px py) := s.drwResult_pixel x y n px py
  refine ⟨_, exec_drw_of_inRange hrange, fb_eq_of_pixel_eq fun px py => ?_, fun hunlit => ⟨?_, ?_, ?_⟩⟩
  · rw [State.drwResult_pixel, hsame, hfirst, Bool.xor_assoc, Bool.xor_self, Bool.xor_false]
  · exact s.drwResult_vf_eq_zero x y n hunlit
  · rintro ⟨r, hr, hbyte⟩
    obtain ⟨px, hx, py, hy, hcovered⟩ := s.exists_drwCovers x y n hr hbyte
    refine (State.drwResult_vf_eq_one _ x y n).2 ⟨px, hx, py, hy, ?_, hcovered⟩
    rw [hfirst, hcovered, hunlit px py hcovered, Bool.false_xor]
  · intro hblank
    refine State.drwResult_vf_eq_zero _ x y n fun px py hcovered => ?_
    exact absurd ((s.drwCovers_of_blank x y n hblank px py).symm.trans hcovered) Bool.false_ne_true

end Sys2Proof.Machine
end

section

/-! A waiting engine (46_timers_keys R224): its step takes pc back to the FX0A, until the host presses a key. -/
namespace Sys2Proof.Machine

/-- With every key released the step of an FX0A is the identity. -/
theorem step_of_waiting {s : State} {x : Nibble} (h : s.AboutTo (.ldVxK x))
    (hkeys : ∀ k : Fin 16, s.key[k.val] = false) : step s = .next s := by
  have hnone : (s.setPc (s.pc + 2)).leastPressed = none := (State.leastPressed_eq_none _).2 hkeys
  rw [step_of_aboutTo h, exec_ldVxK_of_none hnone]
  simp [State.setPc]

/-- Settles O53: the key the host presses is the only one pressed, so it is the one the next step takes. -/
theorem keyWaitUntilPressed : Obligations.KeyWaitUntilPressed := by
  rintro s ⟨⟨y, hy⟩, hkeys⟩
  refine ⟨step_of_waiting hy hkeys, fun k x habout => ?_⟩
  have ⟨_, hfetch, _⟩ := habout
  obtain ⟨u, hpress, hkey, hframe⟩ := setKeySetsOneKey k true s
  have hleast : (u.setPc (u.pc + 2)).leastPressed = some k :=
    (State.leastPressed_eq_some _ k).2
      ⟨(hkey k).trans (if_pos rfl), fun j hj => (hkey j).trans ((if_neg hj.ne).trans (hkeys j))⟩
  rw [hpress]
  refine ⟨_, (step_of_aboutTo (hframe ▸ habout)).trans (exec_ldVxK_of_some hleast x), ?_, ?_⟩
  · rw [State.getV_setV_same, keyByte_toNat]
  · rw [State.setV_pc, State.setPc_pc, hframe]
    exact State.pc_add_two_toNat hfetch

end Sys2Proof.Machine
end

section

/-! The timer tick (60_exceptions R251, R252): each timer counts down to 0 and stays there, so of the ticks after ST = n
the n-th alone finds ST = 1. -/
namespace Sys2Proof.Machine

theorem hostMove_advanceTimers (s : State) : hostMove .advanceTimers s =
    ({ s with dt := tickDown s.dt, st := tickDown s.st }, .tone (decide (s.st = 1))) := rfl

theorem tickDown_toNat (b : Byte) : (tickDown b).toNat = b.toNat - 1 := by
  rw [tickDown]
  split
  · bv_omega
  · omega

/-- Settles O54: one tick of each timer. -/
theorem timerTick : Obligations.TimerTick := fun s =>
  ⟨_, hostMove_advanceTimers s, tickDown_toNat _, tickDown_toNat _, rfl⟩

/-- After k ticks, ST is down by k, or 0. -/
theorem hostRun_ticks_st (k : Nat) (s : State) :
    (hostRun (List.replicate k .advanceTimers) s).st.toNat = s.st.toNat - k := by
  induction k generalizing s with
  | zero => rfl
  | succ k ih =>
    rw [List.replicate_succ, hostRun, ih, hostMove_advanceTimers, tickDown_toNat]
    omega

/-- Settles O55: the tick after k others finds ST = 1 exactly when ST was k + 1. -/
theorem toneOnTheLastTickOnly : Obligations.ToneOnTheLastTickOnly := by
  intro s k
  constructor
  · have hone : (hostRun (List.replicate k .advanceTimers) s).st = 1 ↔ s.st.toNat = k + 1 := by
      rw [← BitVec.toNat_inj, hostRun_ticks_st]
      show s.st.toNat - k = 1 ↔ s.st.toNat = k + 1
      omega
    rw [hostMove_advanceTimers]
    exact congrArg Reply.tone (decide_eq_decide.2 hone)
  · refine BitVec.eq_of_toNat_eq ?_
    rw [hostRun_ticks_st, Nat.sub_self]
    rfl

end Sys2Proof.Machine
end

section

/-! The host's reset (70_reset_and_hazards R281): it keeps the parameters, which no operation changes. -/
namespace Sys2Proof.Machine

theorem step_params {s t : State} (h : step s = .next t) : t.params = s.params := by
  rcases step_effect h with ⟨r, rfl⟩ | ⟨i, -, heffect⟩
  · rfl
  · exact heffect.params_eq

/-- No host operation changes the parameters (10_state R21). -/
theorem hostMove_params (m : Move) (s : State) : (hostMove m s).1.params = s.params := by
  cases m with
  | load rom =>
    rcases Nat.lt_or_ge 3584 rom.length with hlen | hlen
    · rw [hostMove_load_of_gt hlen]
    · rw [hostMove_load_of_le hlen, State.storeBytes_params]
  | setKey k p =>
    rcases Nat.lt_or_ge k 16 with hk | hk
    · rw [hostMove_setKey_of_lt hk]
    · rw [hostMove_setKey_of_ge hk]
  | executeOne =>
    rcases hostMove_executeOne_cases s with hsame | hstep
    · rw [hsame]
    · exact step_params hstep
  | construct | reset | advanceTimers | display => rfl

theorem hostRun_params (ms : List Move) (s : State) : (hostRun ms s).params = s.params := by
  induction ms generalizing s with
  | nil => rfl
  | cons m ms ih => exact (ih _).trans (hostMove_params m s)

/-- Settles O56: what reset keeps is the parameters, which the run before it kept too, and the draws. -/
theorem resetErasesEverything : Obligations.ResetErasesEverything := by
  refine ⟨fun ms s => ?_, hostMove_construct, rfl⟩
  rw [hostMove_reset, hostRun_params]

end Sys2Proof.Machine
end
